-- ==== Sys2Proof/Word.lean ====
section
/-! DEFINITION. The word types of SHA256-RP (spec/00_scope.md R6, R8, R9): every datapath value is an unsigned
32-bit word, bit 0 its least significant bit; addition on it wraps modulo 2^32 (R10), which is `BitVec`'s own `+`. -/

namespace Sys2Proof

/-- A datapath word: WORD = 32 bits (R6), unsigned (R9). -/
abbrev Word := BitVec 32

/-- A byte of a host message (R72); the device itself has no byte lanes (R71). -/
abbrev Byte := BitVec 8

end Sys2Proof
end

