-- ==== Sys2Proof/Config.lean ====
section
/-! DEFINITION. What is fixed for the machine: the parameters the source settles (spec/00_scope.md R6), the ones the
spec decides (R7), and the OPEN platform parameters, which the model takes as an argument (R7, 93 I1 to I3). -/

namespace Sys2Proof

namespace Config

/-- NB: words in one block (R6). -/
def blockWords : Nat := 16

/-- NW: words in one schedule (R6). -/
def scheduleWords : Nat := 64

/-- NR: rounds per block (R6). -/
def rounds : Nat := 64

/-- Bytes in the device window: BUS_OFF = 12 offset bits (R7). -/
def windowBytes : Nat := 4096

/-- ID_VALUE, the value of the read-only ID register: the ASCII bytes "S256" (R7, R34). -/
def idValue : Word := 0x53323536#32

/-- The OPEN parameters of R7, taken as an argument: nothing in the model fixes a value for any of them.
`pages` holds SHA_BASE / 4096 of each instance, so every SHA_BASE is a multiple of 4096 (R62) and N_INSTANCES is its
length (R239). `busTiming` is BUS_TIMING, as the cycles that transaction number n takes; no rule depends on it (R60,
R264), so nothing in the model reads it (log entry 5). -/
structure Platform where
  pages     : List Nat
  busTiming : Nat → Nat

/-- N_INSTANCES (R7). -/
def Platform.nInstances (P : Platform) : Nat := P.pages.length

/-- SHA_BASE of instance k (R62); `none` if there is no instance k. -/
def Platform.shaBase (P : Platform) (k : Nat) : Option Nat := P.pages[k]?.map (windowBytes * ·)

/-- At least one instance (R7), each at its own SHA_BASE (R239). -/
def Platform.wf (P : Platform) : Bool := decide (1 ≤ P.nInstances) && decide P.pages.Nodup

end Config

end Sys2Proof
end

