-- ==== Sys2Proof/Syntax.lean ====
section
/-! DEFINITION. The commands of SHA256-RP, one constructor per row of spec/opcode_table.json (spec/30_encoding.md R102).
No command has a register field, an immediate, an index or a mode field: every operand is implicit in the state (R101). -/

namespace Sys2Proof

/-- The seven commands (R102). -/
inductive Instr where
  | nop    -- 0x00 NOP, R191
  | init   -- 0x01 INIT, R192
  | start  -- 0x02 START, R170
  | sched  -- 0x03 SCHED, R153
  | round  -- 0x04 ROUND, R172
  | final  -- 0x05 FINAL, R174
  | run    -- 0x06 RUN, R193
  deriving DecidableEq, Repr

end Sys2Proof
end

