-- ==== Sys2Proof/WellFormed.lean ====
section
/-! DEFINITION. Well-formedness: of a command word seen as the fields of the one format CMD32 (spec/30_encoding.md
R100), and of a command. A command carries no operand (R101), so the only ill-formed terms of this hardware are command
words: a reserved field that is not 0, or an opcode outside 0x00..0x06 (R103). -/

namespace Sys2Proof

/-- The fields of a CMD32 word (R100): OPC = bits 31..24, RSVD = bits 23..0. -/
structure Cmd32 where
  opc  : BitVec 8
  rsvd : BitVec 24
  deriving DecidableEq, Repr

/-- RSVD "must be 0" (R100). -/
def Cmd32.reservedZero (c : Cmd32) : Bool := c.rsvd == 0#24

/-- OPC is one of the assigned values 0x00..0x06 (R102, R104). -/
def Cmd32.opcodeAssigned (c : Cmd32) : Bool := decide (c.opc.toNat ≤ 0x06)

/-- A legal command word (R102): both checks hold. -/
def Cmd32.wf (c : Cmd32) : Bool := c.reservedZero && c.opcodeAssigned

/-- No command has an operand that could be ill-formed (R101). -/
def Instr.wf : Instr → Bool
  | .nop | .init | .start | .sched | .round | .final | .run => true

end Sys2Proof
end

