-- ==== Sys2Proof/Decode.lean ====
section
/-! DEFINITION. Decoding and encoding of command words (spec/30_encoding.md R100 to R106). Decoding is total on every
32-bit word, depends on the word alone (R106) and rejects by name; a word that is rejected is the spec's `Illegal`. -/

namespace Sys2Proof

/-- Why a word is `Illegal` (R103); both record the same error E_ILLEGAL (R224). -/
inductive IllegalWord where
  | reservedNonzero   -- v[23:0] != 0
  | opcodeReserved    -- v[31:24] in 0x07..0xFF
  deriving DecidableEq, Repr

/-- The fields of a command word (R100). -/
def fieldsOf (v : Word) : Cmd32 := { opc := v.extractLsb' 24 8, rsvd := v.extractLsb' 0 24 }

/-- A command word from its fields: {OPC, RSVD} (R100, R11). -/
def wordOf (c : Cmd32) : Word := c.opc ++ c.rsvd

/-- The opcode map (R102, R106). -/
def commandOf (opc : BitVec 8) : Option Instr :=
  match opc.toNat with
  | 0x00 => some .nop
  | 0x01 => some .init
  | 0x02 => some .start
  | 0x03 => some .sched
  | 0x04 => some .round
  | 0x05 => some .final
  | 0x06 => some .run
  | _    => none

/-- `Decode(v)` of R106: the reserved field is looked at first, then the opcode. -/
def decode (v : Word) : Except IllegalWord Instr :=
  if (fieldsOf v).rsvd = 0#24 then
    match commandOf (fieldsOf v).opc with
    | some i => .ok i
    | none   => .error .opcodeReserved
  else .error .reservedNonzero

/-- The OPC of a command (R102). -/
def opcodeOf : Instr → BitVec 8
  | .nop   => 0x00#8
  | .init  => 0x01#8
  | .start => 0x02#8
  | .sched => 0x03#8
  | .round => 0x04#8
  | .final => 0x05#8
  | .run   => 0x06#8

/-- The command word of a command: its OPC with RSVD = 0 (R100, R102). -/
def encode (i : Instr) : Word := wordOf { opc := opcodeOf i, rsvd := 0#24 }

/-- The 32-bit word that the host's table names by `nbits` and `w`: every bit from `nbits` up is 0, and every command is
exactly 32 bits (R105). -/
def tableWord (nbits w : Nat) : Word := BitVec.ofNat 32 (w % 2 ^ nbits)

/-- The command this decoder reads from a table word; a number that needs more than 32 bits is no command word (R105). A
command is the whole value of one bus write, so no byte order comes in (R71, R100). -/
def decodeTableWord (nbits w : Nat) : Option Instr :=
  if w % 2 ^ nbits < 2 ^ 32 then (decode (tableWord nbits w)).toOption else none

end Sys2Proof
end

