-- ==== Sys2Proof/Machine/State.lean ====
section
/-! DEFINITION. The state of one SHA256-RP instance (spec/10_state.md R20), as plain data, and what its environment
presents to it: the bus transactions (spec/20_memory.md R60), the order in which the agents move (R13) and the reset pin. -/

namespace Sys2Proof.Machine

/-- PHASE, the 2-bit control phase (R27); every value of the field names a phase. -/
inductive Phase where
  | load        -- 0: waiting for the 16 block words
  | sched       -- 1: block started, schedule not complete
  | compress    -- 2: schedule complete, rounds in progress
  | roundsDone  -- 3: all 64 rounds done, the final addition is pending
  deriving DecidableEq, Repr

/-- ERR.CODE (R221); the codes 7 to 15 are never recorded (93 I13). -/
inductive ErrCode where
  | none     -- 0
  | illegal  -- 1 E_ILLEGAL
  | seq      -- 2 E_SEQ
  | busy     -- 3 E_BUSY
  | addr     -- 4 E_ADDR
  | ro       -- 5 E_RO
  | stale    -- 6 E_STALE
  deriving DecidableEq, Repr

/-- The error register ERR (R32). -/
structure ErrReg where
  code  : ErrCode
  multi : Bool
  deriving DecidableEq, Repr

/-- The working-variable registers a..h (R21). -/
structure WorkVars where
  a : Word
  b : Word
  c : Word
  d : Word
  e : Word
  f : Word
  g : Word
  h : Word
  deriving DecidableEq, Repr

/-- The round intermediates, observation registers of the most recent round step (R30). -/
structure RoundObs where
  bsig0 : Word
  bsig1 : Word
  ch    : Word
  maj   : Word
  t1    : Word
  t2    : Word
  deriving DecidableEq, Repr

/-- The `size` port: 0 = 1 byte, 1 = 2 bytes, 2 = 4 bytes, 3 = reserved (R60). -/
inductive AccessSize where
  | byte
  | half
  | word
  | reserved
  deriving DecidableEq, Repr

/-- One host bus transaction, as the ports present it (R60, R61): `we` = 1 is a write; `off` is the byte offset in the
window; a read ignores `wdata`. -/
structure Access where
  we    : Bool
  off   : BitVec 12
  size  : AccessSize
  wdata : Word
  deriving DecidableEq, Repr

/-- What can happen to an instance in one step: a host transaction (R61), a turn of the core agent (R194), or the reset
pin (R250). -/
inductive Event where
  | access (x : Access)
  | core
  | reset
  deriving DecidableEq, Repr

/-- What the bus port shows for the step that led to this state (R60, R61): nothing, the acknowledge of a write, or the
acknowledge of a read with its `rdata`. -/
inductive Reply where
  | quiet
  | ack
  | rdata (v : Word)
  deriving DecidableEq, Repr

/-- The state of one instance. The fields from `wv` to `err` are the tuple of R20, "and nothing else is state".
`inputs` and `reply` are the MODEL'S OWN fields for the world outside the device (log entries 1, 2): the events still to
come, in order, and what the bus port showed for the last one. A claim about every State is a claim about every order of
host transactions, core micro-steps and resets (R13, 93 I4). -/
structure State where
  /-- a..h (R21). -/
  wv      : WorkVars
  /-- HS[0..7] (R22). -/
  hs      : Vector Word 8
  /-- The schedule memory W[0..63] (R23), 64 words of 32 bits; it has no smaller unit (R64, R71). -/
  w       : Vector Word 64
  /-- WLOADED, the load mask (R25). -/
  wloaded : BitVec 16
  /-- s, the index of the next schedule word to compute; 7 bits (R26). -/
  sIdx    : BitVec 7
  /-- t, the index of the next round to perform; 7 bits (R26). -/
  tIdx    : BitVec 7
  /-- PHASE (R27). -/
  phase   : Phase
  /-- BUSY (R28). -/
  busy    : Bool
  /-- BLKCNT (R29). -/
  blkcnt  : Word
  /-- BSIG0, BSIG1, CH, MAJ, T1, T2 (R30). -/
  obs     : RoundObs
  /-- SSIG0 (R31). -/
  ssig0   : Word
  /-- SSIG1 (R31). -/
  ssig1   : Word
  /-- ERR (R32). -/
  err     : ErrReg
  /-- The model's own: the events to come, the next one first. -/
  inputs  : List Event
  /-- The model's own: the bus port's answer in the step that led here. -/
  reply   : Reply
  deriving DecidableEq, Repr

/-- How a step can stop. Both arise only in states that the rules never reach from reset (R35), so both are safe. -/
inductive Fault where
  /-- The core has a turn with BUSY = 1 in PHASE = LOAD. Raised by `coreStep`; SAFE: the state is unreachable, and the
  spec lets a model treat it as a fault (R194, 93 I6). -/
  | coreStepInLoad
  /-- A schedule, round or final step starts in a state that breaks R35's row for its phase, so that the step's
  precondition does not hold (for example s outside 16..63 in SCHED). Raised by `schedStep`, `roundStep` and `finalStep`;
  SAFE: unreachable, treatment "fault" (R35, R154, R173, 93 I7). -/
  | brokenSequence
  deriving DecidableEq, Repr

/-- Why an instruction has no meaning in the model. -/
inductive Refusal where
  /-- The command has no meaning in this model yet. Raised by `exec`'s refused arms only (there are none); SAFE. -/
  | notModelled (mnemonic : String)
  deriving DecidableEq, Repr

/-- The outcome of one step of this machine. -/
abbrev Result := Host.Outcome State Fault Refusal

/-- Working variables all 0 (R38). -/
def WorkVars.zero : WorkVars := { a := 0#32, b := 0#32, c := 0#32, d := 0#32, e := 0#32, f := 0#32, g := 0#32, h := 0#32 }

/-- Round intermediates all 0 (R38). -/
def RoundObs.zero : RoundObs := { bsig0 := 0#32, bsig1 := 0#32, ch := 0#32, maj := 0#32, t1 := 0#32, t2 := 0#32 }

/-- No error recorded (R38). -/
def ErrReg.clear : ErrReg := { code := .none, multi := false }

/-- The machine right after hardware reset: every element at the value of R38. `inputs` and `reply` are the model's own:
no event is yet to come and the bus is quiet (log entries 1, 2). -/
def State.reset : State where
  wv      := .zero
  hs      := ivRom
  w       := Vector.replicate 64 0#32
  wloaded := 0#16
  sIdx    := 0#7
  tIdx    := 0#7
  phase   := .load
  busy    := false
  blkcnt  := 0#32
  obs     := .zero
  ssig0   := 0#32
  ssig1   := 0#32
  err     := .clear
  inputs  := []
  reply   := .quiet

end Sys2Proof.Machine
end

