-- ==== Sys2Proof/Machine/Ops.lean ====
section
/-! DEFINITION. The named operations over registers and the schedule memory: one update per register, the reads and
writes of W, the recording of an error (what this hardware has in place of taking an exception, spec/60_exceptions.md
R220, R222) and the ERR write (what it has in place of returning from one, R197, R235), and the BUSY check of R190. -/

namespace Sys2Proof.Machine

/-! One update per register. -/

def State.setVars (s : State) (v : WorkVars) : State := { s with wv := v }

def State.setHash (s : State) (v : Vector Word 8) : State := { s with hs := v }

def State.setSchedule (s : State) (v : Vector Word 64) : State := { s with w := v }

def State.setLoaded (s : State) (m : BitVec 16) : State := { s with wloaded := m }

/-- The sequencing position (PHASE, s, t) of R26, written together. -/
def State.setSeq (s : State) (p : Phase) (i j : BitVec 7) : State := { s with phase := p, sIdx := i, tIdx := j }

def State.setBusy (s : State) (b : Bool) : State := { s with busy := b }

def State.setBlkcnt (s : State) (n : Word) : State := { s with blkcnt := n }

def State.setObs (s : State) (o : RoundObs) : State := { s with obs := o }

/-- SSIG0 and SSIG1, which one step writes together (R31). -/
def State.setSigmas (s : State) (x y : Word) : State := { s with ssig0 := x, ssig1 := y }

def State.setErr (s : State) (e : ErrReg) : State := { s with err := e }

def State.setInputs (s : State) (l : List Event) : State := { s with inputs := l }

def State.setReply (s : State) (r : Reply) : State := { s with reply := r }

/-! The schedule memory. -/

/-- `W[j]` for j in 0..63 (R23); there is no W[j] from 64 up, and no rule reads one. -/
def State.wordAt (s : State) (j : Nat) : Word := s.w[j]?.getD 0#32

/-- `W[j] <- v` for j in 0..63 (R12); nothing is written from 64 up. -/
def State.setWord (s : State) (j : Nat) (v : Word) : State := s.setSchedule (s.w.setIfInBounds j v)

/-- `HS[k]` for k in 0..7 (R22). -/
def State.hashAt (s : State) (k : Nat) : Word := s.hs[k]?.getD 0#32

/-- The slot k of the tuple (a, b, c, d, e, f, g, h), in "fixed slot order" (R68, R171). -/
def WorkVars.slot (v : WorkVars) (k : Nat) : Word :=
  match k with
  | 0 => v.a
  | 1 => v.b
  | 2 => v.c
  | 3 => v.d
  | 4 => v.e
  | 5 => v.f
  | 6 => v.g
  | 7 => v.h
  | _ => 0#32

/-- Set bit j of a load mask (R25). -/
def markLoaded (m : BitVec 16) (j : Nat) : BitVec 16 := m ||| (1#16 <<< j)

/-! Errors. -/

/-- `RecordError(code)` (R222): the first error since the last clear is kept, later ones only set MULTI. -/
def ErrReg.record (e : ErrReg) (c : ErrCode) : ErrReg :=
  if e.code = .none then { e with code := c } else { e with multi := true }

/-- `raise E_X(info)` (R12, R222): the one shared operation for every error. It changes ERR only (R223); the info is not
recorded (R221). -/
def State.raise (s : State) (c : ErrCode) : State := s.setErr (s.err.record c)

/-- `ErrWrite(v)` (R197): a write of any value to ERR clears CODE and MULTI, in every phase and while BUSY = 1. -/
def errWrite (_v : Word) (s : State) : State := s.setErr .clear

/-! Command checks that more than one command uses. -/

/-- The check of R190 for every command but INIT: E_BUSY while BUSY = 1, else the command's own rule. It stands before
the rule's PHASE check (R230), and each rule checks only PHASE (90 C7). -/
def unlessBusy (rule : State → Result) (s : State) : Result :=
  if s.busy then .next (s.raise .busy) else rule s

/-- All sixteen block words are loaded: WLOADED = 0xFFFF (R25). -/
def State.allLoaded (s : State) : Bool := s.wloaded == 0xFFFF#16

/-- The row of R35 for the current PHASE, "the precondition" of the datapath steps (R154, R173). -/
def State.sequenceOk (s : State) : Bool :=
  match s.phase with
  | .load       => s.sIdx == 0#7 && s.tIdx == 0#7
  | .sched      => decide (16 ≤ s.sIdx.toNat) && decide (s.sIdx.toNat ≤ 63) && s.tIdx == 0#7 && s.allLoaded
  | .compress   => s.sIdx == 64#7 && decide (s.tIdx.toNat ≤ 63) && s.allLoaded
  | .roundsDone => s.sIdx == 64#7 && s.tIdx == 64#7 && s.allLoaded

/-- Run a datapath step where its precondition holds; elsewhere fault, in states the rules never reach (93 I7). -/
def whenSequenceOk (rule : State → State) (s : State) : Result :=
  if s.sequenceOk then .next (rule s) else .fault .brokenSequence

/-- The next state of an outcome, if it has one. -/
def nextOf : Result → Option State
  | .next s    => some s
  | .fault _   => none
  | .refused _ => none

/-- Apply a change to the next state of an outcome. -/
def thenDo (r : Result) (f : State → State) : Result :=
  match r with
  | .next s    => .next (f s)
  | .fault e   => .fault e
  | .refused e => .refused e

end Sys2Proof.Machine
end

