-- ==== Sys2Proof/Machine/Operands.lean ====
section
/-! DEFINITION. Operand forms. A command's operands are implicit (spec/30_encoding.md R101): here are the words that the
schedule step and the round step read. A host transaction's operand is a byte offset: here is the address decode of the
window (spec/20_memory.md R63, spec/10_state.md R37). -/

namespace Sys2Proof.Machine

/-! The implicit operands of the datapath steps. -/

/-- The four operand words of the schedule step that computes word i, in the order of the source's formula: W[i-2],
W[i-7], W[i-15], W[i-16] (R154, R157). -/
structure SchedOperands where
  w2  : Word
  w7  : Word
  w15 : Word
  w16 : Word
  deriving DecidableEq, Repr

/-- Read the operands of the schedule step for word i, with i = s (R101, R154). -/
def State.schedOperands (s : State) : SchedOperands :=
  let i := s.sIdx.toNat
  { w2 := s.wordAt (i - 2), w7 := s.wordAt (i - 7), w15 := s.wordAt (i - 15), w16 := s.wordAt (i - 16) }

/-- Word W[t] for the round step (R101, R173). -/
def State.roundWord (s : State) : Word := s.wordAt s.tIdx.toNat

/-- Round constant K[t] for the round step (R101, R173). -/
def State.roundConst (s : State) : Word := kConst s.tIdx.toNat

/-! The address decode of the host window. -/

/-- The registers of the window (R37). -/
inductive Target where
  | id
  | cmd
  | status
  | err
  | wloaded
  | blkcnt
  | workVar (k : Nat)   -- WV_A..WV_H, k in 0..7
  | hash (k : Nat)      -- H0..H7, k in 0..7
  | bsig0
  | bsig1
  | ch
  | maj
  | t1
  | t2
  | ssig0
  | ssig1
  | schedWord (j : Nat) -- W0..W63, j in 0..63
  | kWord (i : Nat)     -- K0..K63, i in 0..63
  deriving DecidableEq, Repr

/-- The registers from 0x060 to 0x07C, by word number from 0x060 (R68). -/
def obsTarget (n : Nat) : Target :=
  match n with
  | 0 => .bsig0
  | 1 => .bsig1
  | 2 => .ch
  | 3 => .maj
  | 4 => .t1
  | 5 => .t2
  | 6 => .ssig0
  | _ => .ssig1

/-- The register at a word-aligned offset, by its word number off / 4 (R37); `none` is a reserved offset (R66). -/
def targetAt (n : Nat) : Option Target :=
  if n = 0 then some .id
  else if n = 1 then some .cmd
  else if n = 2 then some .status
  else if n = 3 then some .err
  else if n = 4 then some .wloaded
  else if n = 5 then some .blkcnt
  else if 8 ≤ n ∧ n < 16 then some (.workVar (n - 8))
  else if 16 ≤ n ∧ n < 24 then some (.hash (n - 16))
  else if 24 ≤ n ∧ n < 32 then some (obsTarget (n - 24))
  else if 64 ≤ n ∧ n < 128 then some (.schedWord (n - 64))
  else if 128 ≤ n ∧ n < 192 then some (.kWord (n - 128))
  else none

/-- The address decode: `none` for a misaligned offset (R65) and for a reserved one (R66). -/
def target (off : BitVec 12) : Option Target :=
  if off.toNat % 4 = 0 then targetAt (off.toNat / 4) else none

/-- `mapped(off)` (R63). -/
def mapped (off : BitVec 12) : Bool := (target off).isSome

/-- The register a transaction reaches: E_ADDR's three causes all give `none` (R61, R64 to R66). -/
def Access.reaches (x : Access) : Option Target :=
  match x.size with
  | .word => target x.off
  | .byte | .half | .reserved => none

/-- The read-only registers: a write to them records E_RO (R67). -/
def Target.readOnly : Target → Bool
  | .cmd | .err => false
  | .schedWord j => decide (16 ≤ j)
  | .id | .status | .wloaded | .blkcnt | .workVar _ | .hash _ | .bsig0 | .bsig1 | .ch | .maj | .t1 | .t2 | .ssig0 | .ssig1
  | .kWord _ => true

end Sys2Proof.Machine
end

