-- ==== Sys2Proof/Machine/Flags.lean ====
section
/-! DEFINITION. The status bits (spec/10_state.md R24, R25, R32, R33, R36): the machine has no arithmetic flags, only the
fields of STATUS and ERR. STATUS is a view computed from the state at each read, not stored (R20, 92 D40). -/

namespace Sys2Proof.Machine

/-- The 2-bit value of PHASE (R27). -/
def Phase.bits : Phase → BitVec 2
  | .load       => 0#2
  | .sched      => 1#2
  | .compress   => 2#2
  | .roundsDone => 3#2

/-- The 4-bit value of ERR.CODE (R221). -/
def ErrCode.bits : ErrCode → BitVec 4
  | .none    => 0#4
  | .illegal => 1#4
  | .seq     => 2#4
  | .busy    => 3#4
  | .addr    => 4#4
  | .ro      => 5#4
  | .stale   => 6#4

/-- A flag as a word: 1 or 0. -/
def flag (b : Bool) : Word := if b then 1#32 else 0#32

/-- STATUS.WFULL (R33). -/
def State.wfull (s : State) : Bool := s.allLoaded

/-- STATUS.ERRF (R33). -/
def State.errf (s : State) : Bool := s.err.code != .none

/-- STATUS, by the formula of R33. -/
def State.status (s : State) : Word :=
  s.phase.bits.setWidth 32 ||| (flag s.busy <<< 3) ||| (flag s.wfull <<< 4) ||| (s.sIdx.setWidth 32 <<< 8)
    ||| (s.tIdx.setWidth 32 <<< 16) ||| (flag s.errf <<< 31)

/-- The value ERR reads as (R32, R68): zext_32(CODE) OR (MULTI << 8). -/
def ErrReg.word (e : ErrReg) : Word := e.code.bits.setWidth 32 ||| (flag e.multi <<< 8)

/-- `valid(j)` (R24): word j holds a value of the current block. -/
def State.valid (s : State) (j : Nat) : Bool :=
  if j < 16 then s.wloaded.getLsbD j
  else decide (j ≤ 63) && s.phase != .load && decide (j < s.sIdx.toNat)

end Sys2Proof.Machine
end

