-- ==== Sys2Proof/Machine/Functions.lean ====
section
/-! DEFINITION. The combinational functions of the datapath (spec/40_functions.md R120 to R129). Each is a pure, total
function of 32-bit words; addition modulo 2^32 (R122) is `BitVec`'s `+` and sets no flag. -/

namespace Sys2Proof.Machine

/-- rotr32, defined for the wired amounts 0 < n < 32 (R120). -/
def rotr32 (x : Word) (n : Nat) : Word := (x >>> n) ||| (x <<< (32 - n))

/-- The logical right shift, no sign extension (R121). -/
def shr (x : Word) (n : Nat) : Word := x >>> n

/-- σ0, small sigma 0 (R123). -/
def smallSigma0 (x : Word) : Word := rotr32 x 7 ^^^ rotr32 x 18 ^^^ shr x 3

/-- σ1, small sigma 1 (R124). -/
def smallSigma1 (x : Word) : Word := rotr32 x 17 ^^^ rotr32 x 19 ^^^ shr x 10

/-- Σ0, capital Sigma 0 (R125). -/
def bigSigma0 (x : Word) : Word := rotr32 x 2 ^^^ rotr32 x 13 ^^^ rotr32 x 22

/-- Σ1, capital Sigma 1 (R126). -/
def bigSigma1 (x : Word) : Word := rotr32 x 6 ^^^ rotr32 x 11 ^^^ rotr32 x 25

/-- Ch, choose (R127); `~~~` is the 32-bit complement (R129). -/
def ch (x y z : Word) : Word := (x &&& y) ^^^ (~~~x &&& z)

/-- Maj, majority (R128). -/
def maj (x y z : Word) : Word := (x &&& y) ^^^ (x &&& z) ^^^ (y &&& z)

end Sys2Proof.Machine
end

