-- ==== Sys2Proof/Machine/Compressor.lean ====
section
/-! DEFINITION. The round datapath (spec/42_compressor.md): the seed, round and final steps, and the commands START,
ROUND and FINAL. -/

namespace Sys2Proof.Machine

/-- (a, ..., h) <- (HS[0], ..., HS[7]), in "fixed slot order" (R171). -/
def seedVars (hs : Vector Word 8) : WorkVars :=
  { a := hs[0], b := hs[1], c := hs[2], d := hs[3], e := hs[4], f := hs[5], g := hs[6], h := hs[7] }

/-- `SeedStep()` (R171). -/
def seedStep (s : State) : State := (s.setVars (seedVars s.hs)).setSeq .sched 16#7 0#7

/-- START's rule behind the BUSY check: E_SEQ outside LOAD or with a word not loaded (R170). -/
def startRule (s : State) : Result :=
  if s.phase ≠ .load ∨ s.allLoaded = false then .next (s.raise .seq) else .next (seedStep s)

/-- START, 0x02000000: begin a block (R170). -/
def execStart (s : State) : Result := unlessBusy startRule s

/-- The intermediates of one round, from the variables before it, K[i] and W[i]; mod 2^32 (R173). -/
def roundObs (v : WorkVars) (k w : Word) : RoundObs :=
  let s1 := bigSigma1 v.e
  let c := ch v.e v.f v.g
  let s0 := bigSigma0 v.a
  let m := maj v.a v.b v.c
  { bsig0 := s0, bsig1 := s1, ch := c, maj := m, t1 := v.h + s1 + c + k + w, t2 := s0 + m }

/-- The eight-register shift, a tuple assignment (R11, R173). -/
def shiftVars (v : WorkVars) (o : RoundObs) : WorkVars :=
  { a := o.t1 + o.t2, b := v.a, c := v.b, d := v.c, e := v.d + o.t1, f := v.e, g := v.f, h := v.g }

/-- `RoundStep()` (R173), where its precondition holds. -/
def roundNext (s : State) : State :=
  let o := roundObs s.wv s.roundConst s.roundWord
  let i' := s.tIdx + 1#7
  ((s.setObs o).setVars (shiftVars s.wv o)).setSeq (if i' = 64#7 then .roundsDone else s.phase) s.sIdx i'

/-- `RoundStep()` (R173), shared by ROUND and by the core's micro-step. -/
def roundStep (s : State) : Result := whenSequenceOk roundNext s

/-- ROUND's rule behind the BUSY check: E_SEQ outside COMPRESS (R172). -/
def roundRule (s : State) : Result := if s.phase = .compress then roundStep s else .next (s.raise .seq)

/-- ROUND, 0x04000000: perform one compression round (R172). -/
def execRound (s : State) : Result := unlessBusy roundRule s

/-- HS[k] + the working variable of slot k, each mod 2^32 (R175). -/
def addHash (hs : Vector Word 8) (v : WorkVars) : Vector Word 8 :=
  #v[hs[0] + v.a, hs[1] + v.b, hs[2] + v.c, hs[3] + v.d, hs[4] + v.e, hs[5] + v.f, hs[6] + v.g, hs[7] + v.h]

/-- `FinalStep()` (R175), where its precondition holds. -/
def finalNext (s : State) : State :=
  (((s.setHash (addHash s.hs s.wv)).setBlkcnt (s.blkcnt + 1#32)).setLoaded 0#16).setSeq .load 0#7 0#7

/-- `FinalStep()` (R175), shared by FINAL and by the core's last micro-step. -/
def finalStep (s : State) : Result := whenSequenceOk finalNext s

/-- FINAL's rule behind the BUSY check: E_SEQ outside ROUNDS_DONE (R174). -/
def finalRule (s : State) : Result := if s.phase = .roundsDone then finalStep s else .next (s.raise .seq)

/-- FINAL, 0x05000000: add a..h into HS and end the block (R174). -/
def execFinal (s : State) : Result := unlessBusy finalRule s

end Sys2Proof.Machine
end

