-- ==== Sys2Proof/Machine/Scheduler.lean ====
section
/-! DEFINITION. The message schedule expander (spec/41_message_scheduler.md): word loads, word reads, the schedule
datapath step and the command SCHED. -/

namespace Sys2Proof.Machine

/-- `WordLoad(j, v)` for j in 0..15 (R150). -/
def wordLoad (j : Nat) (v : Word) (s : State) : State :=
  if s.busy then s.raise .busy
  else if s.phase ≠ .load then s.raise .seq
  else (s.setWord j v).setLoaded (markLoaded s.wloaded j)

/-- `WordRead(j)` (R152): the word if it is valid, else 0 with E_STALE. -/
def wordRead (j : Nat) (s : State) : State × Word :=
  if s.valid j then (s, s.wordAt j) else (s.raise .stale, 0#32)

/-- The new schedule word from its four operands, mod 2^32 (R154). -/
def schedWordOf (o : SchedOperands) : Word := smallSigma1 o.w2 + o.w7 + smallSigma0 o.w15 + o.w16

/-- `SchedStep()` (R154), where its precondition holds: the four operands are read before W[i] is written. -/
def schedNext (s : State) : State :=
  let o := s.schedOperands
  let i' := s.sIdx + 1#7
  ((s.setSigmas (smallSigma0 o.w15) (smallSigma1 o.w2)).setWord s.sIdx.toNat (schedWordOf o)).setSeq
    (if i' = 64#7 then .compress else s.phase) i' s.tIdx

/-- `SchedStep()` (R154), shared by SCHED and by the core's micro-step. -/
def schedStep (s : State) : Result := whenSequenceOk schedNext s

/-- SCHED's rule behind the BUSY check: E_SEQ outside PHASE = SCHED (R153). -/
def schedRule (s : State) : Result := if s.phase = .sched then schedStep s else .next (s.raise .seq)

/-- SCHED, 0x03000000: compute one schedule word (R153). -/
def execSched (s : State) : Result := unlessBusy schedRule s

end Sys2Proof.Machine
end

