-- ==== Sys2Proof/Machine/Control.lean ====
section
/-! DEFINITION. The control unit (spec/43_control.md): NOP, INIT and RUN, the core agent's micro-step, and hardware reset
(spec/70_reset_and_hazards.md R250). -/

namespace Sys2Proof.Machine

/-- `Nop(): skip` (R191). -/
def nopRule (s : State) : Result := .next s

/-- NOP, 0x00000000: no operation, but E_BUSY while BUSY = 1 (R191). -/
def execNop (s : State) : Result := unlessBusy nopRule s

/-- `Init()` (R192): HS <- IV and every other element but ERR to 0, PHASE to LOAD. -/
def initState (s : State) : State :=
  ((((((((s.setHash ivRom).setVars .zero).setSchedule (Vector.replicate 64 0#32)).setLoaded 0#16).setSeq .load 0#7 0#7).setBusy
    false).setBlkcnt 0#32).setObs .zero).setSigmas 0#32 0#32

/-- INIT, 0x01000000: start a new message; accepted in every phase and while BUSY = 1 (R190, R192). -/
def execInit (s : State) : Result := .next (initState s)

/-- RUN's rule behind the BUSY check (R193): seed first from LOAD, E_SEQ there with a word not loaded. -/
def runRule (s : State) : Result :=
  if s.phase = .load then
    if s.allLoaded then .next ((seedStep s).setBusy true) else .next (s.raise .seq)
  else .next (s.setBusy true)

/-- RUN, 0x06000000: finish the current block autonomously (R193). -/
def execRun (s : State) : Result := unlessBusy runRule s

/-- `CoreStep()` (R194), for BUSY = 1. -/
def coreStep (s : State) : Result :=
  match s.phase with
  | .load       => .fault .coreStepInLoad
  | .sched      => schedStep s
  | .compress   => roundStep s
  | .roundsDone => thenDo (finalStep s) (·.setBusy false)

/-- A turn of the core agent: a micro-step is enabled exactly when BUSY = 1 (R194); with BUSY = 0 the core has no step and
nothing changes (R195). -/
def coreTurn (s : State) : Result := if s.busy then coreStep s else .next s

/-- `Reset()` (R250): Init(), and ERR cleared. -/
def hwReset (s : State) : State := (initState s).setErr .clear

end Sys2Proof.Machine
end

