-- ==== Sys2Proof/Machine/Bus.lean ====
section
/-! DEFINITION. The host bus (spec/20_memory.md): the processing of one transaction (R61), the command write
(spec/43_control.md R190) and the register reads (R68). -/

namespace Sys2Proof.Machine

/-- `CmdWrite(v)` (R190): an illegal word records E_ILLEGAL, before any check of BUSY or PHASE (R103); a legal one is
executed as its command. -/
def cmdWrite (v : Word) (s : State) : Result :=
  match decode v with
  | .error _ => .next (s.raise .illegal)
  | .ok i    => exec i s

/-- `RegRead(off)` (R68), by register; CMD is write-only and reads 0 (R37). W words are read by `wordRead`. -/
def regRead (s : State) : Target → Word
  | .id          => Config.idValue
  | .cmd         => 0#32
  | .status      => s.status
  | .err         => s.err.word
  | .wloaded     => s.wloaded.setWidth 32
  | .blkcnt      => s.blkcnt
  | .workVar k   => s.wv.slot k
  | .hash k      => s.hashAt k
  | .bsig0       => s.obs.bsig0
  | .bsig1       => s.obs.bsig1
  | .ch          => s.obs.ch
  | .maj         => s.obs.maj
  | .t1          => s.obs.t1
  | .t2          => s.obs.t2
  | .ssig0       => s.ssig0
  | .ssig1       => s.ssig1
  | .schedWord j => s.wordAt j
  | .kWord i     => kConst i

/-- A legal read of a register (R61): through the word-select port for a W word, else `RegRead`, which changes nothing. -/
def readTarget (g : Target) (s : State) : State × Word :=
  match g with
  | .schedWord j => wordRead j s
  | .id | .cmd | .status | .err | .wloaded | .blkcnt | .workVar _ | .hash _ | .bsig0 | .bsig1 | .ch | .maj | .t1 | .t2
  | .ssig0 | .ssig1 | .kWord _ => (s, regRead s g)

/-- A legal write of a register (R61): E_RO for a read-only one, else CMD, ERR or a word load. -/
def writeTarget (g : Target) (v : Word) (s : State) : Result :=
  if g.readOnly then .next (s.raise .ro)
  else
    match g with
    | .cmd         => cmdWrite v s
    | .err         => .next (errWrite v s)
    | .schedWord j => .next (wordLoad j v s)
    | .id | .status | .wloaded | .blkcnt | .workVar _ | .hash _ | .bsig0 | .bsig1 | .ch | .maj | .t1 | .t2 | .ssig0
    | .ssig1 | .kWord _ => .next s

/-- The acknowledge of a read: the bus port shows the value read (R61). -/
def answerRead (r : State × Word) : State := r.1.setReply (.rdata r.2)

/-- `Access(we, off, n, v)` (R61). A read that raises an error returns 0. The acknowledge of a write is shown first, so
that a command is executed on the state it leaves. -/
def access (x : Access) (s : State) : Result :=
  match x.reaches with
  | none   => .next ((s.raise .addr).setReply (if x.we then .ack else .rdata 0#32))
  | some g => if x.we then writeTarget g x.wdata (s.setReply .ack) else .next (answerRead (readTarget g s))

/-- The transaction `MemWrite(0x004, 4, v)` by which the host issues a command word (R100). -/
def cmdAccess (v : Word) : Access := { we := true, off := 0x004#12, size := .word, wdata := v }

end Sys2Proof.Machine
end

