-- ==== Sys2Proof/Machine/Step.lean ====
section
/-! DEFINITION. One step of the machine: one atomic transition of one agent (spec/00_scope.md R13, R70). The event that
is next in `inputs` says which agent moves; when none is left, the core goes on alone (log entry 1). -/

namespace Sys2Proof.Machine

/-- One step. -/
def step (s : State) : Host.Outcome State Fault Refusal :=
  match s.inputs with
  | []                => coreTurn (s.setReply .quiet)
  | .core :: rest     => coreTurn ((s.setInputs rest).setReply .quiet)
  | .reset :: rest    => .next (hwReset ((s.setInputs rest).setReply .quiet))
  | .access x :: rest => access x (s.setInputs rest)

/-- `s` with the command word of a table row as the next event: the host's write of it to CMD (R100). SHA256-RP fetches no
instructions (R26, R81); its next command is the next word the host writes to CMD (log entry 3). -/
def State.withFetchWord (s : State) (nbits w : Nat) : State :=
  s.setInputs (.access (cmdAccess (tableWord nbits w)) :: s.inputs)

end Sys2Proof.Machine
end

