-- ==== Sys2Proof/Machine/Platform.lean ====
section
/-! DEFINITION. A platform of several instances (spec/20_memory.md R62, R83, spec/60_exceptions.md R239): each has its own
State at its own SHA_BASE, they share nothing, and the platform presents only the 12-bit offset (R60). The OPEN parameters
are the argument `P` (R7). -/

namespace Sys2Proof.Machine

/-- The byte offset at which an absolute address falls in the window at `base` (R62). -/
def windowOffset (base addr : Nat) : Option (BitVec 12) :=
  if base ≤ addr ∧ addr < base + Config.windowBytes then some (BitVec.ofNat 12 (addr - base)) else none

/-- The number of the instance among `pages` whose window holds the address, and the offset there. -/
def routeFrom : List Nat → Nat → Nat → Option (Nat × BitVec 12)
  | [], _, _ => none
  | page :: rest, k, addr =>
    match windowOffset (Config.windowBytes * page) addr with
    | some off => some (k, off)
    | none     => routeFrom rest (k + 1) addr

/-- The instance and offset that an absolute bus address reaches; `none` belongs to the platform (R63). -/
def route (P : Config.Platform) (addr : Nat) : Option (Nat × BitVec 12) := routeFrom P.pages 0 addr

/-- The bus delivers an access at an absolute address to the instance it reaches, behind the events already on their way
there: one at a time, in bus order (R78). -/
def present (P : Config.Platform) (addr : Nat) (we : Bool) (size : AccessSize) (wdata : Word) (p : List State) :
    List State :=
  match route P addr with
  | none          => p
  | some (k, off) =>
    match p[k]? with
    | none   => p
    | some s => p.set k (s.setInputs (s.inputs ++ [.access { we := we, off := off, size := size, wdata := wdata }]))

/-- A step of instance k; no other instance has a part in it (R83). -/
def stepInstance (k : Nat) (p : List State) : Host.Outcome (List State) Fault Refusal :=
  match p[k]? with
  | none   => .next p
  | some s =>
    match step s with
    | .next s'   => .next (p.set k s')
    | .fault e   => .fault e
    | .refused e => .refused e

/-- The platform after reset: every instance in the reset state. -/
def platformReset (P : Config.Platform) : List State := List.replicate P.nInstances State.reset

end Sys2Proof.Machine
end

