-- ==== Sys2Proof/Machine/HostDuty.lean ====
section
/-! DEFINITION. The host's duties, as the spec states them (spec/20_memory.md R72 to R77): from a message to block words,
and from the hash state to a digest; and the host notation of spec/30_encoding.md R107, R108 as lists of events. The
device does none of this (00_scope.md R5, log entry 6). -/

namespace Sys2Proof.Machine

/-! From a message to blocks. -/

/-- The bits of a byte, most significant first (R72). -/
def byteBits (b : Byte) : List Bool := (List.range 8).map b.getMsbD

/-- The bits of a message of bytes, in stream order (R72). -/
def messageBits (m : List Byte) : List Bool := m.flatMap byteBits

/-- A text message as bytes, by UTF-8 (R77). -/
def utf8Bytes (m : String) : List Byte := m.toUTF8.toList.map (fun b => BitVec.ofNat 8 b.toNat)

/-- The number of 0 bits in the padding, (447 - L) mod 512 (R73). -/
def zeroBits (len : Nat) : Nat := (959 - len % 512) % 512

/-- The 64-bit big-endian bit-length (R73). -/
def lengthField (len : Nat) : List Bool := (List.range 64).map (BitVec.ofNat 64 len).getMsbD

/-- PaddedBitstream: the message's bits, a 1 bit, the 0 bits, the length field (R73). -/
def padBits (m : List Bool) : List Bool :=
  m ++ (true :: (List.replicate (zeroBits m.length) false ++ lengthField m.length))

/-- A word from its bits, most significant first (R72). -/
def wordOfBits (l : List Bool) : Word := l.foldl (fun acc b => (acc <<< 1) ||| (if b then 1#32 else 0#32)) 0#32

/-- W[j] = {B[4j], B[4j+1], B[4j+2], B[4j+3]} (R72). -/
def packWord (b0 b1 b2 b3 : Byte) : Word := b0 ++ b1 ++ b2 ++ b3

/-- Block k of a padded bitstream, as sixteen big-endian words (R72). -/
def blockOf (bits : List Bool) (k : Nat) : Vector Word 16 :=
  Vector.ofFn (fun j : Fin 16 => wordOfBits ((bits.drop (512 * k + 32 * j.val)).take 32))

/-- The blocks of a padded bitstream, in order (R75). -/
def blocksOf (bits : List Bool) : List (Vector Word 16) := (List.range (bits.length / 512)).map (blockOf bits)

/-! From the hash state to a digest. -/

/-- The 256-bit digest, HS[0] first, each word big-endian (R76). -/
def digest (hs : Vector Word 8) : BitVec 256 :=
  hs[0] ++ hs[1] ++ hs[2] ++ hs[3] ++ hs[4] ++ hs[5] ++ hs[6] ++ hs[7]

/-- The digest as 64 lowercase hexadecimal characters (R76). -/
def digestHex (hs : Vector Word 8) : String := (digest hs).toHex

/-! Host notation. -/

/-- `wr OFF, VAL` (R107). -/
def wr (off : BitVec 12) (v : Word) : Event := .access { we := true, off := off, size := .word, wdata := v }

/-- `rd OFF` (R107). -/
def rd (off : BitVec 12) : Event := .access { we := false, off := off, size := .word, wdata := 0#32 }

/-- A command mnemonic as the write it stands for (R108). -/
def cmd (i : Instr) : Event := .access (cmdAccess (encode i))

/-- The offset of schedule word j (R37). -/
def schedOffset (j : Nat) : BitVec 12 := BitVec.ofNat 12 (0x100 + 4 * j)

/-- `LOADBLK w0..w15` (R108). -/
def loadBlk (m : Vector Word 16) : List Event :=
  (List.finRange 16).map (fun j => wr (schedOffset j.val) m[j])

/-- One block in single-step mode, after its loads: START, SCHED*48, ROUND*64, FINAL (R108, R253). -/
def singleSteps : List Event :=
  cmd .start :: (List.replicate 48 (cmd .sched) ++ (List.replicate 64 (cmd .round) ++ [cmd .final]))

/-- `READDIGEST` (R108). -/
def readDigest : List Event := (List.range 8).map (fun k => rd (BitVec.ofNat 12 (0x040 + 4 * k)))

/-- `CLRERR` (R108). -/
def clrErr : Event := wr 0x00C#12 0#32

end Sys2Proof.Machine
end

