-- ==== Sys2Proof/Machine/Reference.lean ====
section
/-! DEFINITION. Block compression as a function (spec/42_compressor.md R178): `expand` and `compress` as the source names
them, on plain lists of words and with no machine state. Statements compare the machine with them. -/

namespace Sys2Proof.Machine

/-- W[i] = σ1(W[i-2]) + W[i-7] + σ0(W[i-15]) + W[i-16], for the next word of a schedule that has i words (R155). -/
def nextWord (ws : List Word) : Word :=
  smallSigma1 (ws.getD (ws.length - 2) 0#32) + ws.getD (ws.length - 7) 0#32 + smallSigma0 (ws.getD (ws.length - 15) 0#32)
    + ws.getD (ws.length - 16) 0#32

/-- A schedule with n more words. -/
def expandBy : Nat → List Word → List Word
  | 0,     ws => ws
  | n + 1, ws => expandBy n (ws ++ [nextWord ws])

/-- `expand(block)`: the 64-word schedule (R151, R154, R178). -/
def expand (m : Vector Word 16) : List Word := expandBy 48 m.toList

/-- One round on the working variables, by the source's three formulas (R173). -/
def roundOf (v : WorkVars) (k w : Word) : WorkVars :=
  let t1 := v.h + bigSigma1 v.e + ch v.e v.f v.g + k + w
  let t2 := bigSigma0 v.a + maj v.a v.b v.c
  { a := t1 + t2, b := v.a, c := v.b, d := v.c, e := v.d + t1, f := v.e, g := v.f, h := v.g }

/-- The working variables after rounds 0..n-1 (R173). -/
def roundsOf (ws : List Word) (v : WorkVars) : Nat → WorkVars
  | 0     => v
  | n + 1 => roundOf (roundsOf ws v n) (kConst n) (ws.getD n 0#32)

/-- `compress(schedule, state_in)`: seed, 64 rounds, final sums (R171, R173, R175, R178). -/
def compress (ws : List Word) (hin : Vector Word 8) : Vector Word 8 :=
  addHash hin (roundsOf ws (seedVars hin) 64)

/-- The hash state after a list of blocks: block i starts from what block i-1 left, block 0 from IV (R75, R176). -/
def hashBlocks (l : List (Vector Word 16)) : Vector Word 8 := l.foldl (fun h m => compress (expand m) h) ivRom

/-- The digest of a message of bytes, host duties included (R72 to R76). -/
def messageDigest (m : List Byte) : BitVec 256 := digest (hashBlocks (blocksOf (padBits (messageBits m))))

/-- `n` steps of the machine, stopping at the first fault or refusal. -/
def runSteps : Nat → State → Result
  | 0,     s => .next s
  | n + 1, s =>
    match step s with
    | .next s'   => runSteps n s'
    | .fault e   => .fault e
    | .refused e => .refused e

/-- What a poll of STATUS saw: `v[3]` of the value read (R33, R108). -/
def Reply.sawBusy : Reply → Bool
  | .rdata v => v.getLsbD 3
  | .quiet   => false
  | .ack     => false

/-- `WAITIDLE` (R108): read STATUS, and again while BUSY was seen. The list is an order of the agents (93 I4): before each
poll the core has that many turns. `none`: BUSY was seen at every poll of the list, and the host goes on waiting. -/
def waitIdle : List Nat → State → Option State
  | [],            _ => none
  | turns :: more, s =>
    match nextOf (runSteps (turns + 1) (s.setInputs (List.replicate turns .core ++ [rd 0x008#12]))) with
    | none   => none
    | some t => if t.reply.sawBusy then waitIdle more t else some t

end Sys2Proof.Machine
end

