-- ==== Sys2Proof/Safety.lean ====
section
/-! DEFINITION. What claims are stated in: the reachable-state invariants (spec/10_state.md R35), which error a transaction
reports (spec/60_exceptions.md R224 to R230) written out from the offsets and words themselves, the micro-steps a RUN still
has to do (spec/43_control.md R194) and the end of a computation (R199). -/

namespace Sys2Proof.Machine

/-! Invariants. -/

/-- The reachable-state invariants of R35, row by row. -/
abbrev State.Inv (s : State) : Prop :=
  (s.phase = .load → s.sIdx = 0#7 ∧ s.tIdx = 0#7) ∧
  (s.phase = .sched → 16 ≤ s.sIdx.toNat ∧ s.sIdx.toNat ≤ 63 ∧ s.tIdx = 0#7 ∧ s.wloaded = 0xFFFF#16) ∧
  (s.phase = .compress → s.sIdx = 64#7 ∧ s.tIdx.toNat ≤ 63 ∧ s.wloaded = 0xFFFF#16) ∧
  (s.phase = .roundsDone → s.sIdx = 64#7 ∧ s.tIdx = 64#7 ∧ s.wloaded = 0xFFFF#16) ∧
  (s.busy = true → s.phase ≠ .load)

/-- MULTI is set only while CODE is not 0 (R32, R222). -/
abbrev State.ErrInv (s : State) : Prop := s.err.multi = true → s.err.code ≠ .none

/-- How many schedule words of the block in progress exist; 0 in LOAD (R24, R26). -/
def State.filled (s : State) : Nat := if s.phase = .load then 0 else s.sIdx.toNat

/-- The schedule recurrence holds of every word computed so far (R155). -/
def State.RecurrenceInv (s : State) : Prop :=
  ∀ i, 16 ≤ i → i ≤ 63 → i < s.filled →
    s.wordAt i = smallSigma1 (s.wordAt (i - 2)) + s.wordAt (i - 7) + smallSigma0 (s.wordAt (i - 15)) + s.wordAt (i - 16)

/-! Errors, from the offsets and words of the spec. -/

/-- The reserved offsets: 0x018, 0x01C, 0x080 to 0x0FC and 0x300 to 0xFFC (R63). -/
def reservedOffset (o : Nat) : Bool :=
  o == 0x018 || o == 0x01C || (decide (0x080 ≤ o) && decide (o ≤ 0x0FC)) || (decide (0x300 ≤ o) && decide (o ≤ 0xFFC))

/-- The read-only offsets: ID, STATUS, WLOADED, BLKCNT, 0x020 to 0x07C, 0x140 to 0x1FC and 0x200 to 0x2FC (R67). -/
def readOnlyOffset (o : Nat) : Bool :=
  o == 0x000 || o == 0x008 || o == 0x010 || o == 0x014 || (decide (0x020 ≤ o) && decide (o ≤ 0x07C))
    || (decide (0x140 ≤ o) && decide (o ≤ 0x1FC)) || (decide (0x200 ≤ o) && decide (o ≤ 0x2FC))

/-- E_SEQ's cases among the command words (R225). -/
def commandOutOfSequence (v : Word) (s : State) : Bool :=
  (v == 0x02000000#32 && (s.phase != .load || s.wloaded != 0xFFFF#16)) || (v == 0x03000000#32 && s.phase != .sched)
    || (v == 0x04000000#32 && s.phase != .compress) || (v == 0x05000000#32 && s.phase != .roundsDone)
    || (v == 0x06000000#32 && s.phase == .load && s.wloaded != 0xFFFF#16)

/-- The error of a CMD write, E_ILLEGAL > E_BUSY > E_SEQ (R224, R225, R226, R230). -/
def commandError (v : Word) (s : State) : Option ErrCode :=
  if v.extractLsb' 0 24 ≠ 0#24 ∨ 7 ≤ (v.extractLsb' 24 8).toNat then some .illegal
  else if s.busy = true ∧ v ≠ 0x01000000#32 then some .busy
  else if commandOutOfSequence v s then some .seq
  else none

/-- The one error a transaction reports, "the first that applies" in the order of R230. -/
def expectedError (x : Access) (s : State) : Option ErrCode :=
  if x.off.toNat % 4 ≠ 0 ∨ x.size ≠ .word ∨ reservedOffset x.off.toNat = true then some .addr
  else if x.we = true then
    if readOnlyOffset x.off.toNat then some .ro
    else if x.off.toNat = 0x004 then commandError x.wdata s
    else if x.off.toNat = 0x00C then none
    else if s.busy then some .busy
    else if s.phase ≠ .load then some .seq
    else none
  else if 0x100 ≤ x.off.toNat ∧ x.off.toNat ≤ 0x1FC ∧ s.valid ((x.off.toNat - 0x100) / 4) = false then some .stale
  else none

/-! Runs. -/

/-- The core micro-steps a RUN still has to do (R194). -/
def State.microStepsLeft (s : State) : Nat :=
  match s.phase with
  | .load       => 0
  | .sched      => (64 - s.sIdx.toNat) + 64 + 1
  | .compress   => (64 - s.tIdx.toNat) + 1
  | .roundsDone => 1

/-- The part of "a message of n blocks is complete" that a state shows (R199): BLKCNT = n, modulo 2^32 (93 I18), LOAD,
BUSY = 0 and no error recorded. `messageCompleted` adds what only the history since INIT or reset shows. -/
def State.messageComplete (s : State) (n : Nat) : Bool :=
  s.blkcnt == BitVec.ofNat 32 n && s.phase == .load && !s.busy && s.err.code == .none

/-- The state of R20 alone, with the model's own fields at a fixed value: two states with equal `device` differ at most
in the events to come and in what the bus last showed. -/
def State.device (s : State) : State := (s.setInputs []).setReply .quiet

/-- An infinite execution, as the event and the state at each step (R196); `inputs` holds just the event of the step. -/
def isExecution (event : Nat → Event) (state : Nat → State) : Prop :=
  ∀ n, step ((state n).setInputs [event n]) = .next (state (n + 1))

/-- Weak fairness of the core: if BUSY stays 1 from some point on, the core takes infinitely many micro-steps (R196). -/
def weaklyFair (event : Nat → Event) (state : Nat → State) : Prop :=
  (∃ n, ∀ m ≥ n, (state m).busy = true) → ∀ n, ∃ m ≥ n, event m = .core

/-! Control flow. -/

/-- The host's next transaction is the write of this word to CMD. -/
def State.issues (s : State) (v : Word) : Prop := ∃ rest, s.inputs = .access (cmdAccess v) :: rest

/-- The next step is a turn of the core agent. -/
def State.coreIsNext (s : State) : Prop := s.inputs = [] ∨ ∃ rest, s.inputs = .core :: rest

/-- The event of the next step; when none is left it is the core's turn (log entry 1). -/
def State.nextEvent (s : State) : Event := s.inputs.headD .core

/-- The event starts a new message: reset, or the host's write of INIT (R192, R250). -/
def Event.startsMessage : Event → Bool
  | .access x => decide (x = cmdAccess 0x01000000#32)
  | .core     => false
  | .reset    => true

/-- The event makes the datapath step of phase p: with BUSY = 0 the step's own command word v, with BUSY = 1 the core's turn
(R153, R172, R174, R194). -/
def Event.performs (e : Event) (v : Word) (p : Phase) (s : State) : Bool :=
  s.phase == p && decide (e = if s.busy then .core else .access (cmdAccess v))

/-- (PHASE, BUSY) after a core micro-step, by the table of R198; the last row is `(ROUNDS_DONE, 1)`. -/
def phaseAfterCore (s : State) : Phase × Bool :=
  match s.phase with
  | .load       => (.load, s.busy)
  | .sched      => if s.sIdx.toNat < 63 then (.sched, true) else (.compress, true)
  | .compress   => if s.tIdx.toNat < 63 then (.compress, true) else (.roundsDone, true)
  | .roundsDone => (.load, false)

/-- (PHASE, BUSY) after the write of word v to CMD, by the table of R198: INIT first, then the rows with BUSY = 0; every
command outside its row "changes neither PHASE nor BUSY". -/
def phaseAfterCommand (v : Word) (s : State) : Phase × Bool :=
  if v = 0x01000000#32 then (.load, false)
  else if s.busy then (s.phase, s.busy)
  else
    match s.phase with
    | .load =>
      if s.wloaded = 0xFFFF#16 ∧ v = 0x02000000#32 then (.sched, false)
      else if s.wloaded = 0xFFFF#16 ∧ v = 0x06000000#32 then (.sched, true)
      else (.load, false)
    | .sched =>
      if v = 0x03000000#32 then (if s.sIdx.toNat < 63 then .sched else .compress, false)
      else (.sched, v == 0x06000000#32)
    | .compress =>
      if v = 0x04000000#32 then (if s.tIdx.toNat < 63 then .compress else .roundsDone, false)
      else (.compress, v == 0x06000000#32)
    | .roundsDone =>
      if v = 0x05000000#32 then (.load, false) else (.roundsDone, v == 0x06000000#32)

/-- (PHASE, BUSY) after the next step, by the table of R198. -/
def phaseAfter (s : State) : Phase × Bool :=
  match s.inputs with
  | []               => if s.busy then phaseAfterCore s else (s.phase, s.busy)
  | .core :: _       => if s.busy then phaseAfterCore s else (s.phase, s.busy)
  | .reset :: _      => (.load, false)
  | .access x :: _   => if x = cmdAccess x.wdata then phaseAfterCommand x.wdata s else (s.phase, s.busy)

/-- An event that moves no data into the device: a turn of the core, or a read. -/
def Event.passive : Event → Bool
  | .core     => true
  | .reset    => false
  | .access x => !x.we

/-! Words that are not valid. -/

/-- The schedule memory `w` holds the valid words of `s`; what else it holds is free (R24, R39, 93 I14). -/
def State.validWordsIn (s : State) (w : Vector Word 64) : Prop :=
  ∀ j, s.valid j = true → (s.setSchedule w).wordAt j = s.wordAt j

/-! The history of a message (R199). -/

/-- A write to ERR (R197). -/
def Event.writesErr : Event → Bool
  | .access x => x.we && decide (x.off = 0x00C#12) && decide (x.size = .word)
  | .core     => false
  | .reset    => false

/-- The event is a transaction that reports an error (R230). -/
def Event.reportsError (e : Event) (s : State) : Bool :=
  match e with
  | .access x => (expectedError x s).isSome
  | .core     => false
  | .reset    => false

/-- What happened since the last INIT or reset: the blocks whose final step has run, in order, whether the host wrote ERR,
and whether a transaction reported an error. -/
structure History where
  blocks      : List (Vector Word 16)
  errWritten  : Bool
  errReported : Bool
  deriving DecidableEq, Repr

/-- The history right after INIT or reset. -/
def History.fresh : History := { blocks := [], errWritten := false, errReported := false }

/-- W[0..15], the words of the block in progress (R151). -/
def State.blockInProgress (s : State) : Vector Word 16 := Vector.ofFn (fun j : Fin 16 => s.wordAt j.val)

/-- The history once event e has happened in state s. -/
def History.after (h : History) (e : Event) (s : State) : History :=
  if e.startsMessage then .fresh
  else
    { blocks := if e.performs 0x05000000#32 .roundsDone s then h.blocks ++ [s.blockInProgress] else h.blocks
      errWritten := h.errWritten || e.writesErr
      errReported := h.errReported || e.reportsError s }

/-- Run the events of a list, one step each, and keep the history; `none` if a step stops. -/
def follow : List Event → State → History → Option (State × History)
  | [],     s, h => some (s, h)
  | e :: l, s, h =>
    match nextOf (step (s.setInputs [e])) with
    | none   => none
    | some t => follow l t (h.after e s)

/-- "A message of n blocks is complete in an instance" (R199): (a) n final steps since the last INIT or reset, and BLKCNT = n;
(b) LOAD and BUSY = 0; (c) ERR.CODE = 0, and the host has not written ERR since. -/
def messageCompleted (n : Nat) (s : State) (h : History) : Bool :=
  h.blocks.length == n && !h.errWritten && s.messageComplete n

/-- The digest, once the message is complete, and not before (R199, R255, 90 C5). -/
def completedDigest (n : Nat) (s : State) (h : History) : Option (BitVec 256) :=
  if messageCompleted n s h then some (digest s.hs) else none

end Sys2Proof.Machine
end

