-- ==== Sys2Proof/Certificates/Slice0/Obligations.lean ====
section
/-! DEFINITION. The statements for the provers. Each says in its docstring which rule of spec/ it formalises. Premises that
repeat R35's row for a phase rule out states that no run reaches (the invariant itself is `StepKeepsSequencingInvariant`). -/

open Sys2Proof Sys2Proof.Machine

/-! ## Encoding -/

/-- R102, written out: each command word of the opcode map decodes to its command, and a few other words are rejected by
name. -/
def Obligations.OpcodeMapWordsDecode : Prop :=
  (decode 0x00000000#32).toOption = some .nop ∧ (decode 0x01000000#32).toOption = some .init ∧
  (decode 0x02000000#32).toOption = some .start ∧ (decode 0x03000000#32).toOption = some .sched ∧
  (decode 0x04000000#32).toOption = some .round ∧ (decode 0x05000000#32).toOption = some .final ∧
  (decode 0x06000000#32).toOption = some .run ∧ (decode 0x07000000#32).toOption = none ∧
  (decode 0x00000001#32).toOption = none ∧ (decode 0xFF000000#32).toOption = none

/-- R102, R106: a word decodes to a command exactly when RSVD is 0 and OPC is at most 6; which command it is depends on OPC
alone, and every bit is significant. -/
def Obligations.DecodeAcceptsExactlyTheOpcodeMap : Prop :=
  (∀ v : Word, (∃ i, decode v = .ok i) ↔ v.extractLsb' 0 24 = 0#24 ∧ (v.extractLsb' 24 8).toNat ≤ 0x06) ∧
  (∀ v : Word, decode v = .ok .nop ↔ v = 0x00000000#32) ∧ (∀ v : Word, decode v = .ok .init ↔ v = 0x01000000#32) ∧
  (∀ v : Word, decode v = .ok .start ↔ v = 0x02000000#32) ∧ (∀ v : Word, decode v = .ok .sched ↔ v = 0x03000000#32) ∧
  (∀ v : Word, decode v = .ok .round ↔ v = 0x04000000#32) ∧ (∀ v : Word, decode v = .ok .final ↔ v = 0x05000000#32) ∧
  (∀ v : Word, decode v = .ok .run ↔ v = 0x06000000#32)

/-- Decode and encode agree in both directions, on every command and on every word (R102, R106). -/
def Obligations.DecodeAndEncodeAgree : Prop :=
  (∀ i : Instr, i.wf = true → decode (encode i) = .ok i ∧ decodeTableWord 32 (encode i).toNat = some i) ∧
  (∀ (v : Word) (i : Instr), decode v = .ok i → encode i = v)

/-- R224: E_ILLEGAL in every phase and whether BUSY is 0 or 1, for every word with a nonzero RSVD or an OPC of 7 or more; it
is recorded and nothing else changes. -/
def Obligations.IllegalCommandWordOnlyRecordsIllegal : Prop :=
  ∀ (s : State) (v : Word), (v.extractLsb' 0 24 ≠ 0#24 ∨ 7 ≤ (v.extractLsb' 24 8).toNat) →
    access (cmdAccess v) s = .next ((s.raise .illegal).setReply .ack)

/-- A step runs the decoded command: when the next event is a host write to CMD of a word that decodes to `i`, the step is
`exec i` of the state without that event, with the write acknowledged; and `withFetchWord` makes just that event next. The
events to come, the acknowledge and `withFetchWord` are the model's own (log entries 1 to 3). -/
def Obligations.StepRunsTheDecodedCommand : Prop :=
  (∀ (s : State) (rest : List Event) (v : Word) (i : Instr), s.inputs = .access (cmdAccess v) :: rest →
    decode v = .ok i → step s = exec i ((s.setInputs rest).setReply .ack)) ∧
  (∀ (s : State) (nbits w : Nat) (i : Instr), decodeTableWord nbits w = some i →
    step (s.withFetchWord nbits w) = exec i (s.setReply .ack))

/-! ## Datapath functions and ROMs -/

/-- R120: "Bit i of the result is bit (i + n) mod 32 of x", for every amount 0 < n < 32. -/
def Obligations.RotateMovesEachBit : Prop :=
  ∀ (x : Word) (n i : Nat), 0 < n → n < 32 → i < 32 → (rotr32 x n).getLsbD i = x.getLsbD ((i + n) % 32)

/-- R121: "Bit i of the result is bit i+n of x when i + n <= 31, else 0". -/
def Obligations.ShiftBringsInZeros : Prop :=
  ∀ (x : Word) (n i : Nat), i < 32 → (shr x n).getLsbD i = (decide (i + n ≤ 31) && x.getLsbD (i + n))

/-- R123 to R126, bit by bit: which three bits of x each bit of a sigma is the XOR of. -/
def Obligations.SigmasXorThreeBits : Prop :=
  ∀ (x : Word) (i : Nat), i < 32 →
    (smallSigma0 x).getLsbD i = ((x.getLsbD ((i + 7) % 32) ^^ x.getLsbD ((i + 18) % 32)) ^^
      (decide (i + 3 ≤ 31) && x.getLsbD (i + 3))) ∧
    (smallSigma1 x).getLsbD i = ((x.getLsbD ((i + 17) % 32) ^^ x.getLsbD ((i + 19) % 32)) ^^
      (decide (i + 10 ≤ 31) && x.getLsbD (i + 10))) ∧
    (bigSigma0 x).getLsbD i =
      ((x.getLsbD ((i + 2) % 32) ^^ x.getLsbD ((i + 13) % 32)) ^^ x.getLsbD ((i + 22) % 32)) ∧
    (bigSigma1 x).getLsbD i =
      ((x.getLsbD ((i + 6) % 32) ^^ x.getLsbD ((i + 11) % 32)) ^^ x.getLsbD ((i + 25) % 32))

/-- R127, R128: each bit of Ch is y's where x is 1 and z's where x is 0; each bit of Maj is the majority of three. -/
def Obligations.ChoiceAndMajorityOfBits : Prop :=
  ∀ (x y z : Word) (i : Nat),
    (ch x y z).getLsbD i = (if x.getLsbD i then y.getLsbD i else z.getLsbD i) ∧
    (maj x y z).getLsbD i =
      decide (2 ≤ (x.getLsbD i).toNat + (y.getLsbD i).toNat + (z.getLsbD i).toNat)

/-- The first 64 primes. -/
def firstPrimes : List Nat :=
  [2, 3, 5, 7, 11, 13, 17, 19, 23, 29, 31, 37, 41, 43, 47, 53, 59, 61, 67, 71, 73, 79, 83, 89, 97, 101, 103, 107, 109, 113,
   127, 131] ++
  [137, 139, 149, 151, 157, 163, 167, 173, 179, 181, 191, 193, 197, 199, 211, 223, 227, 229, 233, 239, 241, 251, 257, 263,
   269, 271, 277, 281, 283, 293, 307, 311]

/-- R130, R131, whose values the spec takes from general knowledge (log entry 7, PRESUMED): the ROMs hold the first 32 bits of
the fractional parts of the cube roots of the first 64 primes, and of the square roots of the first 8. With r the root scaled
by 2^32 and rounded down, the fractional part is r mod 2^32. -/
def Obligations.RomsHoldFractionsOfPrimeRoots : Prop :=
  (∀ i < 64, ∃ r, r ^ 3 ≤ firstPrimes.getD i 0 * 2 ^ 96 ∧ firstPrimes.getD i 0 * 2 ^ 96 < (r + 1) ^ 3 ∧
    (kConst i).toNat = r % 2 ^ 32) ∧
  (∀ k < 8, ∃ r, r ^ 2 ≤ firstPrimes.getD k 0 * 2 ^ 64 ∧ firstPrimes.getD k 0 * 2 ^ 64 < (r + 1) ^ 2 ∧
    (ivRom[k]?.getD 0).toNat = r % 2 ^ 32) ∧
  firstPrimes.length = 64 ∧ (∀ p < 312, p ∈ firstPrimes ↔ p.Prime)

/-! ## Reset and the register window -/

/-- R250, R251, with the table of R38: from any state, BUSY or not, reset gives every element its reset value. The events
still to come are the model's own field and stay. -/
def Obligations.ResetGivesEveryElementItsValue : Prop :=
  ∀ (s : State) (rest : List Event), s.inputs = .reset :: rest → ∃ t, step s = .next t ∧ t = State.reset.setInputs rest ∧
    t.wv = { a := 0#32, b := 0#32, c := 0#32, d := 0#32, e := 0#32, f := 0#32, g := 0#32, h := 0#32 } ∧
    t.hs = #v[0x6a09e667#32, 0xbb67ae85#32, 0x3c6ef372#32, 0xa54ff53a#32, 0x510e527f#32, 0x9b05688c#32, 0x1f83d9ab#32,
      0x5be0cd19#32] ∧
    (∀ j < 64, t.wordAt j = 0#32 ∧ t.valid j = false) ∧ t.wloaded = 0#16 ∧ t.sIdx = 0#7 ∧ t.tIdx = 0#7 ∧ t.phase = .load ∧
    t.busy = false ∧ t.blkcnt = 0#32 ∧ t.obs = { bsig0 := 0#32, bsig1 := 0#32, ch := 0#32, maj := 0#32, t1 := 0#32, t2 := 0#32 } ∧
    t.ssig0 = 0#32 ∧ t.ssig1 = 0#32 ∧ t.err.code = .none ∧ t.err.multi = false

/-- R63, R67: the address decode accepts exactly the aligned offsets outside the reserved ranges, and the registers it finds
at the read-only offsets, and only those, are read-only. -/
def Obligations.AddressDecodeFollowsTheMap : Prop :=
  ∀ off : BitVec 12, (mapped off = true ↔ off.toNat % 4 = 0 ∧ reservedOffset off.toNat = false) ∧
    (∀ g, target off = some g → (g.readOnly = true ↔ readOnlyOffset off.toNat = true))

/-- R68: the value of every register outside the W window, at its offset, in every phase, BUSY or not; the read changes
nothing but what the bus shows. -/
def Obligations.RegisterReadsGiveTheirValues : Prop :=
  ∀ (s : State) (d : Word),
    let reads := fun (off : Nat) (v : Word) =>
      access { we := false, off := BitVec.ofNat 12 off, size := .word, wdata := d } s = .next (s.setReply (.rdata v))
    reads 0x000 0x53323536#32 ∧ reads 0x004 0#32 ∧ reads 0x008 s.status ∧
    reads 0x00C (s.err.code.bits.setWidth 32 ||| (if s.err.multi then 0x100#32 else 0#32)) ∧
    reads 0x010 (s.wloaded.setWidth 32) ∧ reads 0x014 s.blkcnt ∧
    reads 0x020 s.wv.a ∧ reads 0x024 s.wv.b ∧ reads 0x028 s.wv.c ∧ reads 0x02C s.wv.d ∧
    reads 0x030 s.wv.e ∧ reads 0x034 s.wv.f ∧ reads 0x038 s.wv.g ∧ reads 0x03C s.wv.h ∧
    (∀ k : Fin 8, reads (0x040 + 4 * k.val) s.hs[k]) ∧
    reads 0x060 s.obs.bsig0 ∧ reads 0x064 s.obs.bsig1 ∧ reads 0x068 s.obs.ch ∧ reads 0x06C s.obs.maj ∧
    reads 0x070 s.obs.t1 ∧ reads 0x074 s.obs.t2 ∧ reads 0x078 s.ssig0 ∧ reads 0x07C s.ssig1 ∧
    (∀ i < 64, reads (0x200 + 4 * i) (kConst i))

/-- R33: every bit of STATUS, the reserved ones among them, and the refusal of a write to it. -/
def Obligations.StatusShowsTheState : Prop :=
  ∀ s : State,
    s.status.extractLsb' 0 2 = (match s.phase with | .load => 0#2 | .sched => 1#2 | .compress => 2#2 | .roundsDone => 3#2) ∧
    s.status.getLsbD 2 = false ∧ s.status.getLsbD 3 = s.busy ∧ s.status.getLsbD 4 = decide (s.wloaded = 0xFFFF#16) ∧
    s.status.extractLsb' 5 3 = 0#3 ∧ s.status.extractLsb' 8 7 = s.sIdx ∧ s.status.getLsbD 15 = false ∧
    s.status.extractLsb' 16 7 = s.tIdx ∧ s.status.extractLsb' 23 8 = 0#8 ∧
    s.status.getLsbD 31 = decide (s.err.code ≠ .none) ∧
    (∀ v : Word, access { we := true, off := 0x008#12, size := .word, wdata := v } s = .next ((s.raise .ro).setReply .ack))

/-- R152 with R24: a read of schedule word j returns it, and changes nothing, when `valid(j)`; otherwise it returns 0 and
records E_STALE. It is so in every phase and while BUSY = 1; in COMPRESS and ROUNDS_DONE every word is valid. -/
def Obligations.ScheduleReadReturnsOnlyValidWords : Prop :=
  ∀ (s : State) (j : Nat) (d : Word), j < 64 →
    let x : Access := { we := false, off := BitVec.ofNat 12 (0x100 + 4 * j), size := .word, wdata := d }
    let valid := if j < 16 then s.wloaded.getLsbD j = true
      else (s.phase = .sched ∨ s.phase = .compress ∨ s.phase = .roundsDone) ∧ j < s.sIdx.toNat
    (valid → access x s = .next (s.setReply (.rdata (s.wordAt j)))) ∧
    (¬ valid → access x s = .next ((s.raise .stale).setReply (.rdata 0#32))) ∧
    (s.Inv → s.phase = .compress ∨ s.phase = .roundsDone → valid)

/-- The last sentence of R24: the schedule step and the round step read only valid words. In a state that meets R35 the words
they name are valid, and what the words that are not valid hold changes neither their operands nor their result: the steps
from two states that differ only there give states that differ at most in words that are not valid. -/
def Obligations.DatapathReadsOnlyValidWords : Prop :=
  ∀ s : State, s.Inv →
    (s.phase = .sched → ∀ d ∈ [2, 7, 15, 16], s.valid (s.sIdx.toNat - d) = true) ∧
    (s.phase = .compress → s.valid s.tIdx.toNat = true) ∧
    ∀ w, s.validWordsIn w →
      (s.phase = .sched → (s.setSchedule w).schedOperands = s.schedOperands ∧
        ∃ t w', schedStep s = .next t ∧ schedStep (s.setSchedule w) = .next (t.setSchedule w') ∧ t.validWordsIn w') ∧
      (s.phase = .compress → (s.setSchedule w).roundWord = s.roundWord ∧
        ∃ t, roundStep s = .next t ∧ roundStep (s.setSchedule w) = .next (t.setSchedule w) ∧ t.validWordsIn w)

/-- R39(c), 93 I14: what the words that are not valid hold is never observed. From two states that meet R35 and differ only
there, every step, whatever its event, gives states that again differ only there; what the bus shows is the same in both. -/
def Obligations.InvalidWordsAreNeverObserved : Prop :=
  ∀ (s s' : State) (w : Vector Word 64), s.Inv → s.validWordsIn w → step s = .next s' →
    ∃ w', step (s.setSchedule w) = .next (s'.setSchedule w') ∧ s'.validWordsIn w'

/-- R69: a read changes at most ERR and what the bus shows; ERR changes only by E_ADDR, or by E_STALE on a schedule word
that is not valid. -/
def Obligations.ReadsChangeAtMostErr : Prop :=
  ∀ (x : Access) (s : State), x.we = false → ∃ t v, access x s = .next t ∧
    (t = s.setReply (.rdata v) ∨
      ((x.off.toNat % 4 ≠ 0 ∨ x.size ≠ .word ∨ reservedOffset x.off.toNat = true) ∧ v = 0#32 ∧
        t = (s.raise .addr).setReply (.rdata 0#32)) ∨
      (0x100 ≤ x.off.toNat ∧ x.off.toNat ≤ 0x1FC ∧ s.valid ((x.off.toNat - 0x100) / 4) = false ∧ v = 0#32 ∧
        t = (s.raise .stale).setReply (.rdata 0#32)))

/-- R150: a word load in LOAD with BUSY = 0 writes W[j] and sets bit j of the mask, and nothing else; with BUSY = 1 it
records E_BUSY, and otherwise outside LOAD E_SEQ, and then W and WLOADED are unchanged. A write of W16..W63 is no load: it
records E_RO, whatever the phase. -/
def Obligations.WordLoadWritesOneWordInLoad : Prop :=
  (∀ (s : State) (j : Nat) (v : Word), 16 ≤ j → j < 64 →
    access { we := true, off := BitVec.ofNat 12 (0x100 + 4 * j), size := .word, wdata := v } s =
      .next ((s.raise .ro).setReply .ack)) ∧
  ∀ (s : State) (j : Nat) (v : Word), j < 16 →
    let x : Access := { we := true, off := BitVec.ofNat 12 (0x100 + 4 * j), size := .word, wdata := v }
    (s.busy = true → access x s = .next ((s.raise .busy).setReply .ack)) ∧
    (s.busy = false → s.phase ≠ .load → access x s = .next ((s.raise .seq).setReply .ack)) ∧
    (s.busy = false → s.phase = .load → ∃ t, access x s = .next t ∧ t.wordAt j = v ∧
      (∀ k, k ≠ j → t.wordAt k = s.wordAt k) ∧
      (∀ k < 16, t.wloaded.getLsbD k = (s.wloaded.getLsbD k || decide (k = j))) ∧
      t.wv = s.wv ∧ t.hs = s.hs ∧ t.sIdx = s.sIdx ∧ t.tIdx = s.tIdx ∧ t.phase = s.phase ∧ t.busy = s.busy ∧
      t.blkcnt = s.blkcnt ∧ t.obs = s.obs ∧ t.ssig0 = s.ssig0 ∧ t.ssig1 = s.ssig1 ∧ t.err = s.err ∧
      t.inputs = s.inputs)

/-! ## Errors -/

/-- R223, R230, with the causes of R225 and R227 to R229: the error a transaction reports is the first in the order of
R230, and then it changes only ERR; a read returns 0. -/
def Obligations.ErroneousAccessOnlyRecordsTheFirstError : Prop :=
  ∀ (x : Access) (s : State) (c : ErrCode), expectedError x s = some c →
    access x s = .next ((s.raise c).setReply (if x.we then .ack else .rdata 0#32))

/-- R230: a transaction to which no error applies records none; only the ERR write changes ERR then, and clears it. -/
def Obligations.AccessWithoutErrorRecordsNone : Prop :=
  ∀ (x : Access) (s t : State), expectedError x s = none → access x s = .next t →
    t.err = (if x.we = true ∧ x.off = 0x00C#12 then { code := .none, multi := false } else s.err)

/-- R222: the first error is kept and a later one only sets MULTI; nothing else changes; CODE is cleared only by a write to
ERR and by reset. -/
def Obligations.FirstErrorIsKeptUntilCleared : Prop :=
  (∀ (s : State) (c : ErrCode),
    s.raise c = s.setErr (if s.err.code = .none then { code := c, multi := s.err.multi }
      else { code := s.err.code, multi := true })) ∧
  (∀ s s' : State, step s = .next s' → s.err.code ≠ .none → s'.err.code ≠ s.err.code → s'.err.code = .none ∧
    ((∃ rest, s.inputs = .reset :: rest) ∨
      (∃ v rest, s.inputs = .access { we := true, off := 0x00C#12, size := .word, wdata := v } :: rest)))

/-- R197: a write of any value to ERR clears CODE and MULTI, in every phase and while BUSY = 1, and changes nothing else. -/
def Obligations.ErrWriteClearsErr : Prop :=
  ∀ (s : State) (v : Word), access { we := true, off := 0x00C#12, size := .word, wdata := v } s =
    .next ((s.setErr { code := .none, multi := false }).setReply .ack)

/-- R226: while BUSY = 1 every legal command but INIT records E_BUSY and does nothing else, and so does a load of any of
W0..W15; INIT and the ERR write are accepted, and so is a read (it reports no E_BUSY). -/
def Obligations.BusyRefusesAllCommandsButInit : Prop :=
  ∀ s : State, s.busy = true →
    (∀ i : Instr, i ≠ .init → exec i s = .next (s.raise .busy)) ∧
    (∀ (j : Nat) (v : Word), j < 16 →
      access { we := true, off := BitVec.ofNat 12 (0x100 + 4 * j), size := .word, wdata := v } s =
        .next ((s.raise .busy).setReply .ack)) ∧
    exec .init s = exec .init (s.setBusy false) ∧
    (∀ v : Word, access { we := true, off := 0x00C#12, size := .word, wdata := v } s =
      .next ((s.setErr { code := .none, multi := false }).setReply .ack)) ∧
    (∀ x : Access, x.we = false → expectedError x s ≠ some .busy ∧ ∃ t, access x s = .next t)

/-! ## Commands -/

/-- R191: NOP changes nothing; E_BUSY while BUSY = 1; a NOP opcode with a nonzero RSVD is illegal. -/
def Obligations.NopChangesNothing : Prop :=
  (∀ s : State, s.busy = false → exec .nop s = .next s) ∧
  (∀ s : State, s.busy = true → exec .nop s = .next (s.raise .busy)) ∧
  (∀ v : Word, v.extractLsb' 24 8 = 0#8 → v.extractLsb' 0 24 ≠ 0#24 → ∃ e, decode v = .error e)

/-- R192: INIT, from every state, BUSY or not: HS gets IV, every other element but ERR is 0, PHASE is LOAD; ERR is kept. -/
def Obligations.InitStartsANewMessage : Prop :=
  ∀ s : State, ∃ t, exec .init s = .next t ∧
    t.hs = #v[0x6a09e667#32, 0xbb67ae85#32, 0x3c6ef372#32, 0xa54ff53a#32, 0x510e527f#32, 0x9b05688c#32, 0x1f83d9ab#32,
      0x5be0cd19#32] ∧
    t.wv = { a := 0#32, b := 0#32, c := 0#32, d := 0#32, e := 0#32, f := 0#32, g := 0#32, h := 0#32 } ∧ (∀ j < 64, t.wordAt j = 0#32) ∧
    t.wloaded = 0#16 ∧ t.sIdx = 0#7 ∧ t.tIdx = 0#7 ∧ t.phase = .load ∧ t.busy = false ∧ t.blkcnt = 0#32 ∧
    t.obs = { bsig0 := 0#32, bsig1 := 0#32, ch := 0#32, maj := 0#32, t1 := 0#32, t2 := 0#32 } ∧ t.ssig0 = 0#32 ∧ t.ssig1 = 0#32 ∧
    t.err = s.err ∧ t.inputs = s.inputs ∧ t.reply = s.reply ∧
    t.status = (if s.err.code = .none then 0#32 else 0x80000000#32)

/-- R170, R171: START in LOAD with all words loaded seeds a..h from H0..H7, sets s to 16, t to 0 and PHASE to SCHED, and
changes nothing else; elsewhere it records E_SEQ. -/
def Obligations.StartSeedsTheWorkingVariables : Prop :=
  ∀ s : State, s.busy = false →
    (s.phase ≠ .load ∨ s.wloaded ≠ 0xFFFF#16 → exec .start s = .next (s.raise .seq)) ∧
    (s.phase = .load → s.wloaded = 0xFFFF#16 → ∃ t, exec .start s = .next t ∧
      t.wv.a = s.hs[0] ∧ t.wv.b = s.hs[1] ∧ t.wv.c = s.hs[2] ∧ t.wv.d = s.hs[3] ∧
      t.wv.e = s.hs[4] ∧ t.wv.f = s.hs[5] ∧ t.wv.g = s.hs[6] ∧ t.wv.h = s.hs[7] ∧
      t.sIdx = 16#7 ∧ t.tIdx = 0#7 ∧ t.phase = .sched ∧
      t.hs = s.hs ∧ t.w = s.w ∧ t.wloaded = s.wloaded ∧ t.busy = s.busy ∧ t.blkcnt = s.blkcnt ∧ t.obs = s.obs ∧
      t.ssig0 = s.ssig0 ∧ t.ssig1 = s.ssig1 ∧ t.err = s.err ∧ t.inputs = s.inputs ∧ t.reply = s.reply)

/-- R154: what a schedule step does, by the SCHED command and by the core's micro-step alike: the two sigmas, the one new
word from its four operands, s and PHASE, and every other word and register as before. -/
def Obligations.ScheduleStepComputesOneWord : Prop :=
  ∀ s : State, s.phase = .sched → 16 ≤ s.sIdx.toNat → s.sIdx.toNat ≤ 63 → s.tIdx = 0#7 → s.wloaded = 0xFFFF#16 →
    let i := s.sIdx.toNat
    ∃ t, (s.busy = false → exec .sched s = .next t) ∧ (s.busy = true → coreStep s = .next t) ∧
      t.ssig0 = smallSigma0 (s.wordAt (i - 15)) ∧ t.ssig1 = smallSigma1 (s.wordAt (i - 2)) ∧
      t.wordAt i = t.ssig1 + s.wordAt (i - 7) + t.ssig0 + s.wordAt (i - 16) ∧
      t.sIdx.toNat = i + 1 ∧ t.phase = (if i = 63 then .compress else .sched) ∧
      (∀ j, j ≠ i → t.wordAt j = s.wordAt j) ∧
      t.tIdx = s.tIdx ∧ t.wv = s.wv ∧ t.hs = s.hs ∧ t.wloaded = s.wloaded ∧ t.busy = s.busy ∧ t.blkcnt = s.blkcnt ∧
      t.obs = s.obs ∧ t.err = s.err ∧ t.inputs = s.inputs ∧ t.reply = s.reply

/-- R173: what a round step does, by the ROUND command and by the core's micro-step alike: the six intermediates from the
variables before the round, the eight-register shift, t and PHASE, and everything else as before. -/
def Obligations.RoundStepPerformsOneRound : Prop :=
  ∀ s : State, s.phase = .compress → s.sIdx = 64#7 → s.tIdx.toNat ≤ 63 → s.wloaded = 0xFFFF#16 →
    let i := s.tIdx.toNat
    ∃ t, (s.busy = false → exec .round s = .next t) ∧ (s.busy = true → coreStep s = .next t) ∧
      t.obs.bsig1 = bigSigma1 s.wv.e ∧ t.obs.ch = ch s.wv.e s.wv.f s.wv.g ∧
      t.obs.t1 = s.wv.h + t.obs.bsig1 + t.obs.ch + kConst i + s.wordAt i ∧
      t.obs.bsig0 = bigSigma0 s.wv.a ∧ t.obs.maj = maj s.wv.a s.wv.b s.wv.c ∧ t.obs.t2 = t.obs.bsig0 + t.obs.maj ∧
      t.wv.a = t.obs.t1 + t.obs.t2 ∧ t.wv.b = s.wv.a ∧ t.wv.c = s.wv.b ∧ t.wv.d = s.wv.c ∧
      t.wv.e = s.wv.d + t.obs.t1 ∧ t.wv.f = s.wv.e ∧ t.wv.g = s.wv.f ∧ t.wv.h = s.wv.g ∧
      t.tIdx.toNat = i + 1 ∧ t.phase = (if i = 63 then .roundsDone else .compress) ∧
      t.sIdx = s.sIdx ∧ t.w = s.w ∧ t.hs = s.hs ∧ t.wloaded = s.wloaded ∧ t.busy = s.busy ∧ t.blkcnt = s.blkcnt ∧
      t.ssig0 = s.ssig0 ∧ t.ssig1 = s.ssig1 ∧ t.err = s.err ∧ t.inputs = s.inputs ∧ t.reply = s.reply

/-- R175: what a final step does, by the FINAL command and by the core's last micro-step alike (the core also clears BUSY,
R194): eight sums into HS, BLKCNT + 1, WLOADED, s and t to 0, PHASE to LOAD, everything else as before, and no word valid
any more. -/
def Obligations.FinalStepAddsIntoTheHashState : Prop :=
  ∀ s : State, s.phase = .roundsDone → s.sIdx = 64#7 → s.tIdx = 64#7 → s.wloaded = 0xFFFF#16 →
    ∃ t, (s.busy = false → exec .final s = .next t) ∧ (s.busy = true → coreStep s = .next t) ∧ t.busy = false ∧
      t.hs[0] = s.hs[0] + s.wv.a ∧ t.hs[1] = s.hs[1] + s.wv.b ∧ t.hs[2] = s.hs[2] + s.wv.c ∧ t.hs[3] = s.hs[3] + s.wv.d ∧
      t.hs[4] = s.hs[4] + s.wv.e ∧ t.hs[5] = s.hs[5] + s.wv.f ∧ t.hs[6] = s.hs[6] + s.wv.g ∧ t.hs[7] = s.hs[7] + s.wv.h ∧
      t.blkcnt = s.blkcnt + 1#32 ∧ t.wloaded = 0#16 ∧ t.sIdx = 0#7 ∧ t.tIdx = 0#7 ∧ t.phase = .load ∧
      (∀ j < 64, t.valid j = false) ∧
      t.wv = s.wv ∧ t.w = s.w ∧ t.obs = s.obs ∧ t.ssig0 = s.ssig0 ∧ t.ssig1 = s.ssig1 ∧ t.err = s.err ∧
      t.inputs = s.inputs ∧ t.reply = s.reply

/-- R153, R172, R174 (the PHASE check) and R193: SCHED, ROUND and FINAL in any other phase, and RUN in LOAD with a word not
loaded, record E_SEQ and do nothing else. -/
def Obligations.CommandsOutOfPhaseOnlyRecordSeq : Prop :=
  ∀ s : State, s.busy = false →
    (s.phase ≠ .sched → exec .sched s = .next (s.raise .seq)) ∧
    (s.phase ≠ .compress → exec .round s = .next (s.raise .seq)) ∧
    (s.phase ≠ .roundsDone → exec .final s = .next (s.raise .seq)) ∧
    (s.phase = .load → s.wloaded ≠ 0xFFFF#16 → exec .run s = .next (s.raise .seq))

/-- R193: RUN sets BUSY; from LOAD, with all words loaded, it first does what START does; it changes no datapath value by
itself otherwise, and from LOAD with a word not loaded it records E_SEQ; while BUSY = 1 it records E_BUSY. -/
def Obligations.RunHandsTheBlockToTheCore : Prop :=
  (∀ s : State, s.busy = true → exec .run s = .next (s.raise .busy)) ∧
  ∀ s : State, s.busy = false →
    (s.phase ≠ .load → exec .run s = .next (s.setBusy true)) ∧
    (s.phase = .load → s.wloaded ≠ 0xFFFF#16 → exec .run s = .next (s.raise .seq)) ∧
    (s.phase = .load → s.wloaded = 0xFFFF#16 → ∃ t, exec .run s = .next t ∧ exec .start s = .next (t.setBusy false) ∧
      t.busy = true ∧ t.wv.a = s.hs[0] ∧ t.wv.b = s.hs[1] ∧ t.wv.c = s.hs[2] ∧ t.wv.d = s.hs[3] ∧
      t.wv.e = s.hs[4] ∧ t.wv.f = s.hs[5] ∧ t.wv.g = s.hs[6] ∧ t.wv.h = s.hs[7] ∧
      t.sIdx = 16#7 ∧ t.tIdx = 0#7 ∧ t.phase = .sched ∧
      t.hs = s.hs ∧ t.w = s.w ∧ t.wloaded = s.wloaded ∧ t.blkcnt = s.blkcnt ∧ t.obs = s.obs ∧
      t.ssig0 = s.ssig0 ∧ t.ssig1 = s.ssig1 ∧ t.err = s.err ∧ t.inputs = s.inputs ∧ t.reply = s.reply)

/-! ## The core agent -/

/-- R194: each micro-step "has the same effect as the matching single-step command", the last one also clears BUSY, none
records an error, and a turn in LOAD with BUSY = 1 is a fault of the model. -/
def Obligations.MicroStepMatchesItsCommand : Prop :=
  ∀ s : State, s.busy = true →
    (s.phase = .sched → coreStep s = thenDo (exec .sched (s.setBusy false)) (·.setBusy true)) ∧
    (s.phase = .compress → coreStep s = thenDo (exec .round (s.setBusy false)) (·.setBusy true)) ∧
    (s.phase = .roundsDone → coreStep s = exec .final (s.setBusy false)) ∧
    (s.phase = .load → coreStep s = .fault .coreStepInLoad) ∧
    (∀ t, coreStep s = .next t → t.err = s.err)

/-- R195: with BUSY = 0 a turn of the core changes nothing in the device. (A turn of the core with nothing to do is the
model's own way to idle, log entry 1; `device` leaves out the model's own fields.) -/
def Obligations.IdleCoreChangesNothing : Prop :=
  ∀ s : State, s.busy = false → s.coreIsNext → ∃ t, step s = .next t ∧ t.device = s.device

/-- R194: left alone, a RUN takes exactly (64 - s) + 64 + 1 micro-steps from SCHED, (64 - t) + 1 from COMPRESS and 1 from
ROUNDS_DONE; BUSY is 1 until the last and 0 after it, with PHASE = LOAD. From a RUN accepted in LOAD they are 113. -/
def Obligations.RunTakesExactlyItsMicroSteps : Prop :=
  (∀ s : State, s.Inv → s.busy = true → s.inputs = [] →
    (∃ t, runSteps s.microStepsLeft s = .next t ∧ t.busy = false ∧ t.phase = .load) ∧
    (∀ m < s.microStepsLeft, ∃ u, runSteps m s = .next u ∧ u.busy = true)) ∧
  (∀ s t : State, s.busy = false → s.phase = .load → s.wloaded = 0xFFFF#16 → exec .run s = .next t →
    t.microStepsLeft = 113)

/-- R196, in this model, whose list of events to come is finite and after which the core moves on alone (the model's choice,
log entry 1): whatever the host has still to do, BUSY is 0 again after at most one step per event and 113 micro-steps. -/
def Obligations.BusyEndsAfterBoundedSteps : Prop :=
  ∀ s : State, s.Inv → ∃ n t, n ≤ s.inputs.length + 113 ∧ runSteps n s = .next t ∧ t.busy = false

/-- R196: in every weakly fair infinite execution, from any state that meets R35, BUSY is 0 again and again: it returns to 0
after finitely many steps of the whole system. No number of steps bounds that: the host can keep BUSY at 1 for any number. -/
def Obligations.WeakFairnessEndsEveryRun : Prop :=
  (∀ (event : Nat → Event) (state : Nat → State), (state 0).Inv → isExecution event state → weaklyFair event state →
    ∀ n, ∃ m ≥ n, (state m).busy = false) ∧
  (∀ (s : State) (n : Nat), s.busy = true → ∃ (l : List Event) (t : State), l.length = n ∧
    runSteps n (s.setInputs l) = .next t ∧ t.busy = true)

/-- WAITIDLE (R108): it returns only when BUSY = 0, and it does return once the core has had the turns that the RUN needs,
however they are spread over the polls; then PHASE is LOAD, and ERR is as before. -/
def Obligations.WaitIdleReturnsWhenTheRunIsDone : Prop :=
  (∀ (s t : State) (turns : List Nat), waitIdle turns s = some t → t.busy = false) ∧
  (∀ (s : State) (turns : List Nat), s.Inv → s.busy = true → s.microStepsLeft ≤ turns.sum →
    ∃ t, waitIdle turns s = some t ∧ t.busy = false ∧ t.phase = .load ∧ t.err = s.err)

/-! ## Whole-machine rules -/

/-- R35, as an invariant: from every state that meets it the machine takes a next state, which meets it too; in particular
no such state faults. -/
def Obligations.StepKeepsSequencingInvariant : Prop :=
  ∀ s : State, s.Inv → ∃ s', step s = .next s' ∧ s'.Inv

/-- R35 holds at reset. -/
def Obligations.ResetMeetsSequencingInvariant : Prop :=
  State.reset.Inv ∧ ∀ l : List Event, (State.reset.setInputs l).Inv

/-- R35 itself: whatever the host, the core and the reset pin do, and in whatever order, every state reached from reset
meets the invariant, and none is a fault; SIDX and RIDX never exceed 64, and no step reads a word that is not valid. -/
def Obligations.EveryReachableStateIsConsistent : Prop :=
  ∀ (l : List Event) (n : Nat), ∃ t, runSteps n (State.reset.setInputs l) = .next t ∧ t.Inv ∧
    t.sIdx.toNat ≤ 64 ∧ t.tIdx.toNat ≤ 64 ∧
    (t.phase = .sched → ∀ d ∈ [2, 7, 15, 16], t.valid (t.sIdx.toNat - d) = true) ∧
    (t.phase = .compress → t.valid t.tIdx.toNat = true)

/-- MULTI is 1 only while CODE is not 0 (R32, R222): kept by every step, and true at reset. -/
def Obligations.MultiOnlyAfterAnError : Prop :=
  State.reset.ErrInv ∧ ∀ s s' : State, s.ErrInv → step s = .next s' → s'.ErrInv

/-- R155, as an invariant of every step: the recurrence holds of every schedule word computed so far. -/
def Obligations.StepKeepsScheduleRecurrence : Prop :=
  State.reset.RecurrenceInv ∧ ∀ s s' : State, s.RecurrenceInv → step s = .next s' → s'.RecurrenceInv

/-- R156: while a block is in progress a word of it that is valid keeps its value and stays valid, in every step that does
not end the block; FINAL itself, or the core's final step, leaves every word in place. -/
def Obligations.ScheduleWordsAreStable : Prop :=
  ∀ s s' : State, s.Inv → s.phase ≠ .load → step s = .next s' →
    (s'.phase ≠ .load → ∀ j, s.valid j = true → s'.wordAt j = s.wordAt j ∧ s'.valid j = true) ∧
    (s.phase = .roundsDone → s.issues 0x05000000#32 ∨ s.coreIsNext → s'.w = s.w)

/-- R22, R255: HS changes only at a final step, by the eight sums, or becomes IV at INIT or reset; so it is never a partial
sum. -/
def Obligations.HashStateChangesOnlyAtFinalInitOrReset : Prop :=
  ∀ s s' : State, step s = .next s' →
    s'.hs = s.hs ∨
    (s'.hs = ivRom ∧ (s.issues 0x01000000#32 ∨ ∃ rest, s.inputs = .reset :: rest)) ∨
    (s.phase = .roundsDone ∧ s'.phase = .load ∧ (s.issues 0x05000000#32 ∨ (s.busy = true ∧ s.coreIsNext)) ∧
      ∀ k < 8, s'.hashAt k = s.hashAt k + s.wv.slot k)

/-- R21: only the seed step (START, or RUN from LOAD), the round step, INIT and reset write a..h. -/
def Obligations.WorkingVariablesHaveThreeWriters : Prop :=
  ∀ s s' : State, step s = .next s' →
    s'.wv = s.wv ∨
    (s'.wv = .zero ∧ (s.issues 0x01000000#32 ∨ ∃ rest, s.inputs = .reset :: rest)) ∨
    (s.phase = .load ∧ (s.issues 0x02000000#32 ∨ s.issues 0x06000000#32) ∧ ∀ k < 8, s'.wv.slot k = s.hashAt k) ∨
    (s.phase = .compress ∧ (s.issues 0x04000000#32 ∨ (s.busy = true ∧ s.coreIsNext)) ∧
      s'.wv = roundOf s.wv (kConst s.tIdx.toNat) (s.wordAt s.tIdx.toNat))

/-- R30, R31: each round step, by ROUND or by the core, leaves its intermediates in the round's observation registers, and each
schedule step its two sigmas; INIT and reset clear them all; every other step keeps them. So they hold the last step's. -/
def Obligations.ObservationRegistersHoldTheLastStep : Prop :=
  ∀ s s' : State, step s = .next s' →
    (s.nextEvent.startsMessage = true → s'.obs = .zero ∧ s'.ssig0 = 0#32 ∧ s'.ssig1 = 0#32) ∧
    (s.nextEvent.performs 0x04000000#32 .compress s = true →
      s'.obs = roundObs s.wv (kConst s.tIdx.toNat) (s.wordAt s.tIdx.toNat)) ∧
    (s.nextEvent.startsMessage = false → s.nextEvent.performs 0x04000000#32 .compress s = false → s'.obs = s.obs) ∧
    (s.nextEvent.performs 0x03000000#32 .sched s = true →
      s'.ssig0 = smallSigma0 (s.wordAt (s.sIdx.toNat - 15)) ∧ s'.ssig1 = smallSigma1 (s.wordAt (s.sIdx.toNat - 2))) ∧
    (s.nextEvent.startsMessage = false → s.nextEvent.performs 0x03000000#32 .sched s = false →
      s'.ssig0 = s.ssig0 ∧ s'.ssig1 = s.ssig1)

/-- R29: BLKCNT goes up by 1, modulo 2^32, at each final step, by FINAL or by the core; it is 0 after INIT and reset; and every
other step keeps it. -/
def Obligations.BlkcntCountsFinalSteps : Prop :=
  ∀ s s' : State, step s = .next s' →
    (s.nextEvent.startsMessage = true → s'.blkcnt = 0#32) ∧
    (s.nextEvent.performs 0x05000000#32 .roundsDone s = true → s'.blkcnt = s.blkcnt + 1#32) ∧
    (s.nextEvent.startsMessage = false → s.nextEvent.performs 0x05000000#32 .roundsDone s = false → s'.blkcnt = s.blkcnt)

/-- R198: PHASE and BUSY after every step are those of the table's row, and unchanged where the table has no row. -/
def Obligations.PhaseTransitionsFollowTheTable : Prop :=
  ∀ s s' : State, s.Inv → step s = .next s' → (s'.phase, s'.busy) = phaseAfter s

/-! ## A block as a function -/

/-- R194, R178: a block run by RUN ends in the same device state as one run by START, 48 SCHED, 64 ROUND and FINAL. -/
def Obligations.RunEqualsSingleSteps : Prop :=
  ∀ s : State, s.phase = .load → s.sIdx = 0#7 → s.tIdx = 0#7 → s.busy = false → s.wloaded = 0xFFFF#16 →
    ∃ t u, runSteps 114 (s.setInputs [cmd .run]) = .next t ∧ runSteps 114 (s.setInputs singleSteps) = .next u ∧
      t.device = u.device ∧ t.phase = .load ∧ t.busy = false ∧ t.inputs = []

/-- R178, first half: for every block M and hash state, loading the 16 words and then START; SCHED x 48; ROUND x 64; FINAL,
or RUN and the core's micro-steps, leaves HS = compress(expand(M), HS before), in 130 steps either way (R263). -/
def Obligations.BlockLeavesCompressOfExpand : Prop :=
  ∀ (s : State) (m : Vector Word 16), s.phase = .load → s.sIdx = 0#7 → s.tIdx = 0#7 → s.busy = false →
    (∃ t, runSteps 130 (s.setInputs (loadBlk m ++ singleSteps)) = .next t ∧ t.hs = compress (expand m) s.hs ∧
      t.blkcnt = s.blkcnt + 1#32 ∧ t.phase = .load ∧ t.busy = false ∧ t.err = s.err) ∧
    (∃ t, runSteps 130 (s.setInputs (loadBlk m ++ [cmd .run])) = .next t ∧ t.hs = compress (expand m) s.hs ∧
      t.blkcnt = s.blkcnt + 1#32 ∧ t.phase = .load ∧ t.busy = false ∧ t.err = s.err)

/-- R178, last sentence, with R258: host reads among the micro-steps of a RUN, however many and wherever, do not change
what it computes: once BUSY is 0, every register but ERR is what it is without them. -/
def Obligations.ReadsDoNotDisturbARun : Prop :=
  ∀ (s : State) (l : List Event), s.Inv → s.busy = true → (∀ e ∈ l, e.passive = true) →
    ∃ t u n, n ≤ l.length + 113 ∧ runSteps n (s.setInputs l) = .next t ∧
      runSteps s.microStepsLeft (s.setInputs []) = .next u ∧ t.busy = false ∧ u.busy = false ∧
      (t.setErr .clear).device = (u.setErr .clear).device

/-- R75, R176, R199: for every list of blocks, from reset, each loaded and single-stepped in order, HS ends as the chained
hash of the blocks, and the message is complete, its history included, with just those blocks. For the blocks of a padded
message the digest is then the reference digest, by definition of `messageDigest`. -/
def Obligations.BlocksHashToTheReferenceDigest : Prop :=
  ∀ l : List (Vector Word 16),
    let events := l.flatMap (fun m => loadBlk m ++ singleSteps)
    (∃ t, runSteps (130 * l.length) (State.reset.setInputs events) = .next t ∧
      t.hs = hashBlocks l ∧ t.messageComplete l.length = true) ∧
    (∃ t h, follow events State.reset .fresh = some (t, h) ∧ h.blocks = l ∧ messageCompleted l.length t h = true ∧
      completedDigest l.length t h = some (digest (hashBlocks l)) ∧
      ∀ m : List Byte, l = blocksOf (padBits (messageBits m)) → completedDigest l.length t h = some (messageDigest m))

/-- R22, R155, R173, R176, R178: whatever the host, the core and the reset pin do from reset, and in whatever order, no step
stops, HS is the chained hash of the blocks whose final step has run since the last INIT or reset, and BLKCNT is their number
(modulo 2^32). -/
def Obligations.HashStateIsTheHashOfTheFinishedBlocks : Prop :=
  ∀ l : List Event, ∃ t h, follow l State.reset .fresh = some (t, h) ∧ t.hs = hashBlocks h.blocks ∧
    t.blkcnt = BitVec.ofNat 32 h.blocks.length

/-- R199(c): "so no error was recorded during it". Of a message that is complete, no transaction since the INIT or reset that
began it reported an error; in particular an error that the host cleared meanwhile does not count as none. -/
def Obligations.CompletedMessageHadNoError : Prop :=
  ∀ (l : List Event) (t : State) (h : History) (n : Nat), follow l State.reset .fresh = some (t, h) →
    (messageCompleted n t h = true → h.errReported = false ∧ h.blocks.length = n ∧ t.blkcnt = BitVec.ofNat 32 n ∧
      completedDigest n t h = some (digest t.hs)) ∧
    (h.errReported = true ∨ h.errWritten = true ∨ t.busy = true ∨ t.phase ≠ .load → completedDigest n t h = none)

/-! ## Host duties and the platform -/

/-- R73, R74, R75: the padded stream is the message, one 1 bit, the fewest 0 bits that reach 448 mod 512, and the length in
64 bits; so its length is a positive multiple of 512. The block of the empty message is 0x80000000 and fifteen zeros. -/
def Obligations.PaddingReachesAWholeBlock : Prop :=
  (∀ m : List Bool, (padBits m).length % 512 = 0 ∧ m.length + 65 ≤ (padBits m).length ∧
    (padBits m).length < m.length + 65 + 512 ∧ (padBits m).take m.length = m ∧
    (padBits m)[m.length]? = some true ∧
    (∀ i, m.length < i → i + 64 < (padBits m).length → (padBits m)[i]? = some false) ∧
    (m.length < 2 ^ 64 → ((padBits m).drop ((padBits m).length - 64)).foldl (fun n b => 2 * n + b.toNat) 0 = m.length)) ∧
  (∀ m : List Byte, m.length < 56 → (blocksOf (padBits (messageBits m))).length = 1) ∧
  blocksOf (padBits []) =
    [#v[0x80000000#32, 0#32, 0#32, 0#32, 0#32, 0#32, 0#32, 0#32, 0#32, 0#32, 0#32, 0#32, 0#32, 0#32, 0#32, 0#32]]

/-- R62, R83, R239: an address inside the window of instance k reaches it at its offset, and a transaction to one instance,
or a step of one, never changes another. -/
def Obligations.InstancesShareNothing : Prop :=
  (∀ (P : Config.Platform) (k base off : Nat), P.wf = true → P.shaBase k = some base → off < 4096 →
    route P (base + off) = some (k, BitVec.ofNat 12 off)) ∧
  (∀ (P : Config.Platform) (addr : Nat) (we : Bool) (size : AccessSize) (v : Word) (p : List State) (j : Nat),
    (∀ off, route P addr ≠ some (j, off)) → (present P addr we size v p)[j]? = p[j]?) ∧
  (∀ (k j : Nat) (p q : List State), stepInstance k p = .next q → j ≠ k → q[j]? = p[j]?)
end

