-- ==== Sys2Proof/Laws/State.lean ====
section
/-! SUPPORT. One lemma per field per update of State, true by `rfl`, so that no later proof unfolds a record update; and the
equality of two states field by field. -/

namespace Sys2Proof.Machine

/-! setVars -/

@[simp] theorem State.setVars_wv (s : State) (v : WorkVars) : (s.setVars v).wv = v := rfl
@[simp] theorem State.setVars_hs (s : State) (v : WorkVars) : (s.setVars v).hs = s.hs := rfl
@[simp] theorem State.setVars_w (s : State) (v : WorkVars) : (s.setVars v).w = s.w := rfl
@[simp] theorem State.setVars_wloaded (s : State) (v : WorkVars) : (s.setVars v).wloaded = s.wloaded := rfl
@[simp] theorem State.setVars_sIdx (s : State) (v : WorkVars) : (s.setVars v).sIdx = s.sIdx := rfl
@[simp] theorem State.setVars_tIdx (s : State) (v : WorkVars) : (s.setVars v).tIdx = s.tIdx := rfl
@[simp] theorem State.setVars_phase (s : State) (v : WorkVars) : (s.setVars v).phase = s.phase := rfl
@[simp] theorem State.setVars_busy (s : State) (v : WorkVars) : (s.setVars v).busy = s.busy := rfl
@[simp] theorem State.setVars_blkcnt (s : State) (v : WorkVars) : (s.setVars v).blkcnt = s.blkcnt := rfl
@[simp] theorem State.setVars_obs (s : State) (v : WorkVars) : (s.setVars v).obs = s.obs := rfl
@[simp] theorem State.setVars_ssig0 (s : State) (v : WorkVars) : (s.setVars v).ssig0 = s.ssig0 := rfl
@[simp] theorem State.setVars_ssig1 (s : State) (v : WorkVars) : (s.setVars v).ssig1 = s.ssig1 := rfl
@[simp] theorem State.setVars_err (s : State) (v : WorkVars) : (s.setVars v).err = s.err := rfl
@[simp] theorem State.setVars_inputs (s : State) (v : WorkVars) : (s.setVars v).inputs = s.inputs := rfl
@[simp] theorem State.setVars_reply (s : State) (v : WorkVars) : (s.setVars v).reply = s.reply := rfl

/-! setHash -/

@[simp] theorem State.setHash_wv (s : State) (v : Vector Word 8) : (s.setHash v).wv = s.wv := rfl
@[simp] theorem State.setHash_hs (s : State) (v : Vector Word 8) : (s.setHash v).hs = v := rfl
@[simp] theorem State.setHash_w (s : State) (v : Vector Word 8) : (s.setHash v).w = s.w := rfl
@[simp] theorem State.setHash_wloaded (s : State) (v : Vector Word 8) : (s.setHash v).wloaded = s.wloaded := rfl
@[simp] theorem State.setHash_sIdx (s : State) (v : Vector Word 8) : (s.setHash v).sIdx = s.sIdx := rfl
@[simp] theorem State.setHash_tIdx (s : State) (v : Vector Word 8) : (s.setHash v).tIdx = s.tIdx := rfl
@[simp] theorem State.setHash_phase (s : State) (v : Vector Word 8) : (s.setHash v).phase = s.phase := rfl
@[simp] theorem State.setHash_busy (s : State) (v : Vector Word 8) : (s.setHash v).busy = s.busy := rfl
@[simp] theorem State.setHash_blkcnt (s : State) (v : Vector Word 8) : (s.setHash v).blkcnt = s.blkcnt := rfl
@[simp] theorem State.setHash_obs (s : State) (v : Vector Word 8) : (s.setHash v).obs = s.obs := rfl
@[simp] theorem State.setHash_ssig0 (s : State) (v : Vector Word 8) : (s.setHash v).ssig0 = s.ssig0 := rfl
@[simp] theorem State.setHash_ssig1 (s : State) (v : Vector Word 8) : (s.setHash v).ssig1 = s.ssig1 := rfl
@[simp] theorem State.setHash_err (s : State) (v : Vector Word 8) : (s.setHash v).err = s.err := rfl
@[simp] theorem State.setHash_inputs (s : State) (v : Vector Word 8) : (s.setHash v).inputs = s.inputs := rfl
@[simp] theorem State.setHash_reply (s : State) (v : Vector Word 8) : (s.setHash v).reply = s.reply := rfl

/-! setSchedule -/

@[simp] theorem State.setSchedule_wv (s : State) (v : Vector Word 64) : (s.setSchedule v).wv = s.wv := rfl
@[simp] theorem State.setSchedule_hs (s : State) (v : Vector Word 64) : (s.setSchedule v).hs = s.hs := rfl
@[simp] theorem State.setSchedule_w (s : State) (v : Vector Word 64) : (s.setSchedule v).w = v := rfl
@[simp] theorem State.setSchedule_wloaded (s : State) (v : Vector Word 64) : (s.setSchedule v).wloaded = s.wloaded := rfl
@[simp] theorem State.setSchedule_sIdx (s : State) (v : Vector Word 64) : (s.setSchedule v).sIdx = s.sIdx := rfl
@[simp] theorem State.setSchedule_tIdx (s : State) (v : Vector Word 64) : (s.setSchedule v).tIdx = s.tIdx := rfl
@[simp] theorem State.setSchedule_phase (s : State) (v : Vector Word 64) : (s.setSchedule v).phase = s.phase := rfl
@[simp] theorem State.setSchedule_busy (s : State) (v : Vector Word 64) : (s.setSchedule v).busy = s.busy := rfl
@[simp] theorem State.setSchedule_blkcnt (s : State) (v : Vector Word 64) : (s.setSchedule v).blkcnt = s.blkcnt := rfl
@[simp] theorem State.setSchedule_obs (s : State) (v : Vector Word 64) : (s.setSchedule v).obs = s.obs := rfl
@[simp] theorem State.setSchedule_ssig0 (s : State) (v : Vector Word 64) : (s.setSchedule v).ssig0 = s.ssig0 := rfl
@[simp] theorem State.setSchedule_ssig1 (s : State) (v : Vector Word 64) : (s.setSchedule v).ssig1 = s.ssig1 := rfl
@[simp] theorem State.setSchedule_err (s : State) (v : Vector Word 64) : (s.setSchedule v).err = s.err := rfl
@[simp] theorem State.setSchedule_inputs (s : State) (v : Vector Word 64) : (s.setSchedule v).inputs = s.inputs := rfl
@[simp] theorem State.setSchedule_reply (s : State) (v : Vector Word 64) : (s.setSchedule v).reply = s.reply := rfl

/-! setLoaded -/

@[simp] theorem State.setLoaded_wv (s : State) (m : BitVec 16) : (s.setLoaded m).wv = s.wv := rfl
@[simp] theorem State.setLoaded_hs (s : State) (m : BitVec 16) : (s.setLoaded m).hs = s.hs := rfl
@[simp] theorem State.setLoaded_w (s : State) (m : BitVec 16) : (s.setLoaded m).w = s.w := rfl
@[simp] theorem State.setLoaded_wloaded (s : State) (m : BitVec 16) : (s.setLoaded m).wloaded = m := rfl
@[simp] theorem State.setLoaded_sIdx (s : State) (m : BitVec 16) : (s.setLoaded m).sIdx = s.sIdx := rfl
@[simp] theorem State.setLoaded_tIdx (s : State) (m : BitVec 16) : (s.setLoaded m).tIdx = s.tIdx := rfl
@[simp] theorem State.setLoaded_phase (s : State) (m : BitVec 16) : (s.setLoaded m).phase = s.phase := rfl
@[simp] theorem State.setLoaded_busy (s : State) (m : BitVec 16) : (s.setLoaded m).busy = s.busy := rfl
@[simp] theorem State.setLoaded_blkcnt (s : State) (m : BitVec 16) : (s.setLoaded m).blkcnt = s.blkcnt := rfl
@[simp] theorem State.setLoaded_obs (s : State) (m : BitVec 16) : (s.setLoaded m).obs = s.obs := rfl
@[simp] theorem State.setLoaded_ssig0 (s : State) (m : BitVec 16) : (s.setLoaded m).ssig0 = s.ssig0 := rfl
@[simp] theorem State.setLoaded_ssig1 (s : State) (m : BitVec 16) : (s.setLoaded m).ssig1 = s.ssig1 := rfl
@[simp] theorem State.setLoaded_err (s : State) (m : BitVec 16) : (s.setLoaded m).err = s.err := rfl
@[simp] theorem State.setLoaded_inputs (s : State) (m : BitVec 16) : (s.setLoaded m).inputs = s.inputs := rfl
@[simp] theorem State.setLoaded_reply (s : State) (m : BitVec 16) : (s.setLoaded m).reply = s.reply := rfl

/-! setSeq -/

@[simp] theorem State.setSeq_wv (s : State) (p : Phase) (i j : BitVec 7) : (s.setSeq p i j).wv = s.wv := rfl
@[simp] theorem State.setSeq_hs (s : State) (p : Phase) (i j : BitVec 7) : (s.setSeq p i j).hs = s.hs := rfl
@[simp] theorem State.setSeq_w (s : State) (p : Phase) (i j : BitVec 7) : (s.setSeq p i j).w = s.w := rfl
@[simp] theorem State.setSeq_wloaded (s : State) (p : Phase) (i j : BitVec 7) : (s.setSeq p i j).wloaded = s.wloaded := rfl
@[simp] theorem State.setSeq_sIdx (s : State) (p : Phase) (i j : BitVec 7) : (s.setSeq p i j).sIdx = i := rfl
@[simp] theorem State.setSeq_tIdx (s : State) (p : Phase) (i j : BitVec 7) : (s.setSeq p i j).tIdx = j := rfl
@[simp] theorem State.setSeq_phase (s : State) (p : Phase) (i j : BitVec 7) : (s.setSeq p i j).phase = p := rfl
@[simp] theorem State.setSeq_busy (s : State) (p : Phase) (i j : BitVec 7) : (s.setSeq p i j).busy = s.busy := rfl
@[simp] theorem State.setSeq_blkcnt (s : State) (p : Phase) (i j : BitVec 7) : (s.setSeq p i j).blkcnt = s.blkcnt := rfl
@[simp] theorem State.setSeq_obs (s : State) (p : Phase) (i j : BitVec 7) : (s.setSeq p i j).obs = s.obs := rfl
@[simp] theorem State.setSeq_ssig0 (s : State) (p : Phase) (i j : BitVec 7) : (s.setSeq p i j).ssig0 = s.ssig0 := rfl
@[simp] theorem State.setSeq_ssig1 (s : State) (p : Phase) (i j : BitVec 7) : (s.setSeq p i j).ssig1 = s.ssig1 := rfl
@[simp] theorem State.setSeq_err (s : State) (p : Phase) (i j : BitVec 7) : (s.setSeq p i j).err = s.err := rfl
@[simp] theorem State.setSeq_inputs (s : State) (p : Phase) (i j : BitVec 7) : (s.setSeq p i j).inputs = s.inputs := rfl
@[simp] theorem State.setSeq_reply (s : State) (p : Phase) (i j : BitVec 7) : (s.setSeq p i j).reply = s.reply := rfl

/-! setBusy -/

@[simp] theorem State.setBusy_wv (s : State) (b : Bool) : (s.setBusy b).wv = s.wv := rfl
@[simp] theorem State.setBusy_hs (s : State) (b : Bool) : (s.setBusy b).hs = s.hs := rfl
@[simp] theorem State.setBusy_w (s : State) (b : Bool) : (s.setBusy b).w = s.w := rfl
@[simp] theorem State.setBusy_wloaded (s : State) (b : Bool) : (s.setBusy b).wloaded = s.wloaded := rfl
@[simp] theorem State.setBusy_sIdx (s : State) (b : Bool) : (s.setBusy b).sIdx = s.sIdx := rfl
@[simp] theorem State.setBusy_tIdx (s : State) (b : Bool) : (s.setBusy b).tIdx = s.tIdx := rfl
@[simp] theorem State.setBusy_phase (s : State) (b : Bool) : (s.setBusy b).phase = s.phase := rfl
@[simp] theorem State.setBusy_busy (s : State) (b : Bool) : (s.setBusy b).busy = b := rfl
@[simp] theorem State.setBusy_blkcnt (s : State) (b : Bool) : (s.setBusy b).blkcnt = s.blkcnt := rfl
@[simp] theorem State.setBusy_obs (s : State) (b : Bool) : (s.setBusy b).obs = s.obs := rfl
@[simp] theorem State.setBusy_ssig0 (s : State) (b : Bool) : (s.setBusy b).ssig0 = s.ssig0 := rfl
@[simp] theorem State.setBusy_ssig1 (s : State) (b : Bool) : (s.setBusy b).ssig1 = s.ssig1 := rfl
@[simp] theorem State.setBusy_err (s : State) (b : Bool) : (s.setBusy b).err = s.err := rfl
@[simp] theorem State.setBusy_inputs (s : State) (b : Bool) : (s.setBusy b).inputs = s.inputs := rfl
@[simp] theorem State.setBusy_reply (s : State) (b : Bool) : (s.setBusy b).reply = s.reply := rfl

/-! setBlkcnt -/

@[simp] theorem State.setBlkcnt_wv (s : State) (n : Word) : (s.setBlkcnt n).wv = s.wv := rfl
@[simp] theorem State.setBlkcnt_hs (s : State) (n : Word) : (s.setBlkcnt n).hs = s.hs := rfl
@[simp] theorem State.setBlkcnt_w (s : State) (n : Word) : (s.setBlkcnt n).w = s.w := rfl
@[simp] theorem State.setBlkcnt_wloaded (s : State) (n : Word) : (s.setBlkcnt n).wloaded = s.wloaded := rfl
@[simp] theorem State.setBlkcnt_sIdx (s : State) (n : Word) : (s.setBlkcnt n).sIdx = s.sIdx := rfl
@[simp] theorem State.setBlkcnt_tIdx (s : State) (n : Word) : (s.setBlkcnt n).tIdx = s.tIdx := rfl
@[simp] theorem State.setBlkcnt_phase (s : State) (n : Word) : (s.setBlkcnt n).phase = s.phase := rfl
@[simp] theorem State.setBlkcnt_busy (s : State) (n : Word) : (s.setBlkcnt n).busy = s.busy := rfl
@[simp] theorem State.setBlkcnt_blkcnt (s : State) (n : Word) : (s.setBlkcnt n).blkcnt = n := rfl
@[simp] theorem State.setBlkcnt_obs (s : State) (n : Word) : (s.setBlkcnt n).obs = s.obs := rfl
@[simp] theorem State.setBlkcnt_ssig0 (s : State) (n : Word) : (s.setBlkcnt n).ssig0 = s.ssig0 := rfl
@[simp] theorem State.setBlkcnt_ssig1 (s : State) (n : Word) : (s.setBlkcnt n).ssig1 = s.ssig1 := rfl
@[simp] theorem State.setBlkcnt_err (s : State) (n : Word) : (s.setBlkcnt n).err = s.err := rfl
@[simp] theorem State.setBlkcnt_inputs (s : State) (n : Word) : (s.setBlkcnt n).inputs = s.inputs := rfl
@[simp] theorem State.setBlkcnt_reply (s : State) (n : Word) : (s.setBlkcnt n).reply = s.reply := rfl

/-! setObs -/

@[simp] theorem State.setObs_wv (s : State) (o : RoundObs) : (s.setObs o).wv = s.wv := rfl
@[simp] theorem State.setObs_hs (s : State) (o : RoundObs) : (s.setObs o).hs = s.hs := rfl
@[simp] theorem State.setObs_w (s : State) (o : RoundObs) : (s.setObs o).w = s.w := rfl
@[simp] theorem State.setObs_wloaded (s : State) (o : RoundObs) : (s.setObs o).wloaded = s.wloaded := rfl
@[simp] theorem State.setObs_sIdx (s : State) (o : RoundObs) : (s.setObs o).sIdx = s.sIdx := rfl
@[simp] theorem State.setObs_tIdx (s : State) (o : RoundObs) : (s.setObs o).tIdx = s.tIdx := rfl
@[simp] theorem State.setObs_phase (s : State) (o : RoundObs) : (s.setObs o).phase = s.phase := rfl
@[simp] theorem State.setObs_busy (s : State) (o : RoundObs) : (s.setObs o).busy = s.busy := rfl
@[simp] theorem State.setObs_blkcnt (s : State) (o : RoundObs) : (s.setObs o).blkcnt = s.blkcnt := rfl
@[simp] theorem State.setObs_obs (s : State) (o : RoundObs) : (s.setObs o).obs = o := rfl
@[simp] theorem State.setObs_ssig0 (s : State) (o : RoundObs) : (s.setObs o).ssig0 = s.ssig0 := rfl
@[simp] theorem State.setObs_ssig1 (s : State) (o : RoundObs) : (s.setObs o).ssig1 = s.ssig1 := rfl
@[simp] theorem State.setObs_err (s : State) (o : RoundObs) : (s.setObs o).err = s.err := rfl
@[simp] theorem State.setObs_inputs (s : State) (o : RoundObs) : (s.setObs o).inputs = s.inputs := rfl
@[simp] theorem State.setObs_reply (s : State) (o : RoundObs) : (s.setObs o).reply = s.reply := rfl

/-! setSigmas -/

@[simp] theorem State.setSigmas_wv (s : State) (x y : Word) : (s.setSigmas x y).wv = s.wv := rfl
@[simp] theorem State.setSigmas_hs (s : State) (x y : Word) : (s.setSigmas x y).hs = s.hs := rfl
@[simp] theorem State.setSigmas_w (s : State) (x y : Word) : (s.setSigmas x y).w = s.w := rfl
@[simp] theorem State.setSigmas_wloaded (s : State) (x y : Word) : (s.setSigmas x y).wloaded = s.wloaded := rfl
@[simp] theorem State.setSigmas_sIdx (s : State) (x y : Word) : (s.setSigmas x y).sIdx = s.sIdx := rfl
@[simp] theorem State.setSigmas_tIdx (s : State) (x y : Word) : (s.setSigmas x y).tIdx = s.tIdx := rfl
@[simp] theorem State.setSigmas_phase (s : State) (x y : Word) : (s.setSigmas x y).phase = s.phase := rfl
@[simp] theorem State.setSigmas_busy (s : State) (x y : Word) : (s.setSigmas x y).busy = s.busy := rfl
@[simp] theorem State.setSigmas_blkcnt (s : State) (x y : Word) : (s.setSigmas x y).blkcnt = s.blkcnt := rfl
@[simp] theorem State.setSigmas_obs (s : State) (x y : Word) : (s.setSigmas x y).obs = s.obs := rfl
@[simp] theorem State.setSigmas_ssig0 (s : State) (x y : Word) : (s.setSigmas x y).ssig0 = x := rfl
@[simp] theorem State.setSigmas_ssig1 (s : State) (x y : Word) : (s.setSigmas x y).ssig1 = y := rfl
@[simp] theorem State.setSigmas_err (s : State) (x y : Word) : (s.setSigmas x y).err = s.err := rfl
@[simp] theorem State.setSigmas_inputs (s : State) (x y : Word) : (s.setSigmas x y).inputs = s.inputs := rfl
@[simp] theorem State.setSigmas_reply (s : State) (x y : Word) : (s.setSigmas x y).reply = s.reply := rfl

/-! setErr -/

@[simp] theorem State.setErr_wv (s : State) (e : ErrReg) : (s.setErr e).wv = s.wv := rfl
@[simp] theorem State.setErr_hs (s : State) (e : ErrReg) : (s.setErr e).hs = s.hs := rfl
@[simp] theorem State.setErr_w (s : State) (e : ErrReg) : (s.setErr e).w = s.w := rfl
@[simp] theorem State.setErr_wloaded (s : State) (e : ErrReg) : (s.setErr e).wloaded = s.wloaded := rfl
@[simp] theorem State.setErr_sIdx (s : State) (e : ErrReg) : (s.setErr e).sIdx = s.sIdx := rfl
@[simp] theorem State.setErr_tIdx (s : State) (e : ErrReg) : (s.setErr e).tIdx = s.tIdx := rfl
@[simp] theorem State.setErr_phase (s : State) (e : ErrReg) : (s.setErr e).phase = s.phase := rfl
@[simp] theorem State.setErr_busy (s : State) (e : ErrReg) : (s.setErr e).busy = s.busy := rfl
@[simp] theorem State.setErr_blkcnt (s : State) (e : ErrReg) : (s.setErr e).blkcnt = s.blkcnt := rfl
@[simp] theorem State.setErr_obs (s : State) (e : ErrReg) : (s.setErr e).obs = s.obs := rfl
@[simp] theorem State.setErr_ssig0 (s : State) (e : ErrReg) : (s.setErr e).ssig0 = s.ssig0 := rfl
@[simp] theorem State.setErr_ssig1 (s : State) (e : ErrReg) : (s.setErr e).ssig1 = s.ssig1 := rfl
@[simp] theorem State.setErr_err (s : State) (e : ErrReg) : (s.setErr e).err = e := rfl
@[simp] theorem State.setErr_inputs (s : State) (e : ErrReg) : (s.setErr e).inputs = s.inputs := rfl
@[simp] theorem State.setErr_reply (s : State) (e : ErrReg) : (s.setErr e).reply = s.reply := rfl

/-! setInputs -/

@[simp] theorem State.setInputs_wv (s : State) (l : List Event) : (s.setInputs l).wv = s.wv := rfl
@[simp] theorem State.setInputs_hs (s : State) (l : List Event) : (s.setInputs l).hs = s.hs := rfl
@[simp] theorem State.setInputs_w (s : State) (l : List Event) : (s.setInputs l).w = s.w := rfl
@[simp] theorem State.setInputs_wloaded (s : State) (l : List Event) : (s.setInputs l).wloaded = s.wloaded := rfl
@[simp] theorem State.setInputs_sIdx (s : State) (l : List Event) : (s.setInputs l).sIdx = s.sIdx := rfl
@[simp] theorem State.setInputs_tIdx (s : State) (l : List Event) : (s.setInputs l).tIdx = s.tIdx := rfl
@[simp] theorem State.setInputs_phase (s : State) (l : List Event) : (s.setInputs l).phase = s.phase := rfl
@[simp] theorem State.setInputs_busy (s : State) (l : List Event) : (s.setInputs l).busy = s.busy := rfl
@[simp] theorem State.setInputs_blkcnt (s : State) (l : List Event) : (s.setInputs l).blkcnt = s.blkcnt := rfl
@[simp] theorem State.setInputs_obs (s : State) (l : List Event) : (s.setInputs l).obs = s.obs := rfl
@[simp] theorem State.setInputs_ssig0 (s : State) (l : List Event) : (s.setInputs l).ssig0 = s.ssig0 := rfl
@[simp] theorem State.setInputs_ssig1 (s : State) (l : List Event) : (s.setInputs l).ssig1 = s.ssig1 := rfl
@[simp] theorem State.setInputs_err (s : State) (l : List Event) : (s.setInputs l).err = s.err := rfl
@[simp] theorem State.setInputs_inputs (s : State) (l : List Event) : (s.setInputs l).inputs = l := rfl
@[simp] theorem State.setInputs_reply (s : State) (l : List Event) : (s.setInputs l).reply = s.reply := rfl

/-! setReply -/

@[simp] theorem State.setReply_wv (s : State) (r : Reply) : (s.setReply r).wv = s.wv := rfl
@[simp] theorem State.setReply_hs (s : State) (r : Reply) : (s.setReply r).hs = s.hs := rfl
@[simp] theorem State.setReply_w (s : State) (r : Reply) : (s.setReply r).w = s.w := rfl
@[simp] theorem State.setReply_wloaded (s : State) (r : Reply) : (s.setReply r).wloaded = s.wloaded := rfl
@[simp] theorem State.setReply_sIdx (s : State) (r : Reply) : (s.setReply r).sIdx = s.sIdx := rfl
@[simp] theorem State.setReply_tIdx (s : State) (r : Reply) : (s.setReply r).tIdx = s.tIdx := rfl
@[simp] theorem State.setReply_phase (s : State) (r : Reply) : (s.setReply r).phase = s.phase := rfl
@[simp] theorem State.setReply_busy (s : State) (r : Reply) : (s.setReply r).busy = s.busy := rfl
@[simp] theorem State.setReply_blkcnt (s : State) (r : Reply) : (s.setReply r).blkcnt = s.blkcnt := rfl
@[simp] theorem State.setReply_obs (s : State) (r : Reply) : (s.setReply r).obs = s.obs := rfl
@[simp] theorem State.setReply_ssig0 (s : State) (r : Reply) : (s.setReply r).ssig0 = s.ssig0 := rfl
@[simp] theorem State.setReply_ssig1 (s : State) (r : Reply) : (s.setReply r).ssig1 = s.ssig1 := rfl
@[simp] theorem State.setReply_err (s : State) (r : Reply) : (s.setReply r).err = s.err := rfl
@[simp] theorem State.setReply_inputs (s : State) (r : Reply) : (s.setReply r).inputs = s.inputs := rfl
@[simp] theorem State.setReply_reply (s : State) (r : Reply) : (s.setReply r).reply = r := rfl

/-! setWord -/

@[simp] theorem State.setWord_wv (s : State) (j : Nat) (v : Word) : (s.setWord j v).wv = s.wv := rfl
@[simp] theorem State.setWord_hs (s : State) (j : Nat) (v : Word) : (s.setWord j v).hs = s.hs := rfl
@[simp] theorem State.setWord_w (s : State) (j : Nat) (v : Word) : (s.setWord j v).w = s.w.setIfInBounds j v := rfl
@[simp] theorem State.setWord_wloaded (s : State) (j : Nat) (v : Word) : (s.setWord j v).wloaded = s.wloaded := rfl
@[simp] theorem State.setWord_sIdx (s : State) (j : Nat) (v : Word) : (s.setWord j v).sIdx = s.sIdx := rfl
@[simp] theorem State.setWord_tIdx (s : State) (j : Nat) (v : Word) : (s.setWord j v).tIdx = s.tIdx := rfl
@[simp] theorem State.setWord_phase (s : State) (j : Nat) (v : Word) : (s.setWord j v).phase = s.phase := rfl
@[simp] theorem State.setWord_busy (s : State) (j : Nat) (v : Word) : (s.setWord j v).busy = s.busy := rfl
@[simp] theorem State.setWord_blkcnt (s : State) (j : Nat) (v : Word) : (s.setWord j v).blkcnt = s.blkcnt := rfl
@[simp] theorem State.setWord_obs (s : State) (j : Nat) (v : Word) : (s.setWord j v).obs = s.obs := rfl
@[simp] theorem State.setWord_ssig0 (s : State) (j : Nat) (v : Word) : (s.setWord j v).ssig0 = s.ssig0 := rfl
@[simp] theorem State.setWord_ssig1 (s : State) (j : Nat) (v : Word) : (s.setWord j v).ssig1 = s.ssig1 := rfl
@[simp] theorem State.setWord_err (s : State) (j : Nat) (v : Word) : (s.setWord j v).err = s.err := rfl
@[simp] theorem State.setWord_inputs (s : State) (j : Nat) (v : Word) : (s.setWord j v).inputs = s.inputs := rfl
@[simp] theorem State.setWord_reply (s : State) (j : Nat) (v : Word) : (s.setWord j v).reply = s.reply := rfl

/-! raise -/

@[simp] theorem State.raise_wv (s : State) (c : ErrCode) : (s.raise c).wv = s.wv := rfl
@[simp] theorem State.raise_hs (s : State) (c : ErrCode) : (s.raise c).hs = s.hs := rfl
@[simp] theorem State.raise_w (s : State) (c : ErrCode) : (s.raise c).w = s.w := rfl
@[simp] theorem State.raise_wloaded (s : State) (c : ErrCode) : (s.raise c).wloaded = s.wloaded := rfl
@[simp] theorem State.raise_sIdx (s : State) (c : ErrCode) : (s.raise c).sIdx = s.sIdx := rfl
@[simp] theorem State.raise_tIdx (s : State) (c : ErrCode) : (s.raise c).tIdx = s.tIdx := rfl
@[simp] theorem State.raise_phase (s : State) (c : ErrCode) : (s.raise c).phase = s.phase := rfl
@[simp] theorem State.raise_busy (s : State) (c : ErrCode) : (s.raise c).busy = s.busy := rfl
@[simp] theorem State.raise_blkcnt (s : State) (c : ErrCode) : (s.raise c).blkcnt = s.blkcnt := rfl
@[simp] theorem State.raise_obs (s : State) (c : ErrCode) : (s.raise c).obs = s.obs := rfl
@[simp] theorem State.raise_ssig0 (s : State) (c : ErrCode) : (s.raise c).ssig0 = s.ssig0 := rfl
@[simp] theorem State.raise_ssig1 (s : State) (c : ErrCode) : (s.raise c).ssig1 = s.ssig1 := rfl
@[simp] theorem State.raise_err (s : State) (c : ErrCode) : (s.raise c).err = s.err.record c := rfl
@[simp] theorem State.raise_inputs (s : State) (c : ErrCode) : (s.raise c).inputs = s.inputs := rfl
@[simp] theorem State.raise_reply (s : State) (c : ErrCode) : (s.raise c).reply = s.reply := rfl

end Sys2Proof.Machine
end

