-- ==== Sys2Proof/Laws/Ops.lean ====
section
/-! SUPPORT. What each shared operation of Machine/Ops.lean can do, said once. -/

namespace Sys2Proof.Machine

/-! The schedule memory: a read after a write. -/

theorem wordAt_eq_of_w {s t : State} (h : s.w = t.w) (j : Nat) : s.wordAt j = t.wordAt j := by
  simp [State.wordAt, h]

theorem wordAt_setWord_same (s : State) {j : Nat} (hj : j < 64) (v : Word) : (s.setWord j v).wordAt j = v := by
  simp [State.wordAt, hj]

theorem wordAt_setWord_other (s : State) {i j : Nat} (h : i ≠ j) (v : Word) :
    (s.setWord i v).wordAt j = s.wordAt j := by
  simp [State.wordAt, h]

theorem wordAt_setSchedule_zero (s : State) (j : Nat) : (s.setSchedule (Vector.replicate 64 0#32)).wordAt j = 0#32 := by
  by_cases h : j < 64 <;> simp [State.wordAt, h]

@[simp] theorem wordAt_setVars (s : State) (v : WorkVars) (j : Nat) : (s.setVars v).wordAt j = s.wordAt j := rfl

@[simp] theorem wordAt_setHash (s : State) (v : Vector Word 8) (j : Nat) : (s.setHash v).wordAt j = s.wordAt j := rfl

@[simp] theorem wordAt_setLoaded (s : State) (m : BitVec 16) (j : Nat) : (s.setLoaded m).wordAt j = s.wordAt j := rfl

@[simp] theorem wordAt_setSeq (s : State) (p : Phase) (a b : BitVec 7) (j : Nat) :
    (s.setSeq p a b).wordAt j = s.wordAt j := rfl

@[simp] theorem wordAt_setBusy (s : State) (b : Bool) (j : Nat) : (s.setBusy b).wordAt j = s.wordAt j := rfl

@[simp] theorem wordAt_setBlkcnt (s : State) (n : Word) (j : Nat) : (s.setBlkcnt n).wordAt j = s.wordAt j := rfl

@[simp] theorem wordAt_setObs (s : State) (o : RoundObs) (j : Nat) : (s.setObs o).wordAt j = s.wordAt j := rfl

@[simp] theorem wordAt_setSigmas (s : State) (x y : Word) (j : Nat) : (s.setSigmas x y).wordAt j = s.wordAt j := rfl

@[simp] theorem wordAt_setErr (s : State) (e : ErrReg) (j : Nat) : (s.setErr e).wordAt j = s.wordAt j := rfl

@[simp] theorem wordAt_raise (s : State) (c : ErrCode) (j : Nat) : (s.raise c).wordAt j = s.wordAt j := rfl

@[simp] theorem wordAt_setInputs (s : State) (l : List Event) (j : Nat) : (s.setInputs l).wordAt j = s.wordAt j := rfl

@[simp] theorem wordAt_setReply (s : State) (r : Reply) (j : Nat) : (s.setReply r).wordAt j = s.wordAt j := rfl

/-! The sequence check and the load mask. -/

theorem allLoaded_iff (s : State) : s.allLoaded = true ↔ s.wloaded = 0xFFFF#16 := by simp [State.allLoaded]

theorem sequenceOk_of_sched {s : State} (hp : s.phase = .sched) :
    s.sequenceOk = true ↔ 16 ≤ s.sIdx.toNat ∧ s.sIdx.toNat ≤ 63 ∧ s.tIdx = 0#7 ∧ s.wloaded = 0xFFFF#16 := by
  simp [State.sequenceOk, hp, allLoaded_iff, and_assoc]

theorem sequenceOk_of_compress {s : State} (hp : s.phase = .compress) :
    s.sequenceOk = true ↔ s.sIdx = 64#7 ∧ s.tIdx.toNat ≤ 63 ∧ s.wloaded = 0xFFFF#16 := by
  simp [State.sequenceOk, hp, allLoaded_iff, and_assoc]

theorem sequenceOk_of_roundsDone {s : State} (hp : s.phase = .roundsDone) :
    s.sequenceOk = true ↔ s.sIdx = 64#7 ∧ s.tIdx = 64#7 ∧ s.wloaded = 0xFFFF#16 := by
  simp [State.sequenceOk, hp, allLoaded_iff, and_assoc]

/-- Marking word j sets bit j of the mask and no other. -/
theorem getLsbD_markLoaded (m : BitVec 16) {j k : Nat} (hk : k < 16) :
    (markLoaded m j).getLsbD k = (m.getLsbD k || decide (k = j)) := by
  simp only [markLoaded, BitVec.getLsbD_or, BitVec.getLsbD_shiftLeft, BitVec.getLsbD_one, hk]
  by_cases h : k = j
  · subst h; simp
  · by_cases h2 : k < j
    · simp [h, h2]
    · have : k - j ≠ 0 := by omega
      simp [h, this]

/-! Errors. -/

/-- What recording an error does to ERR (R222). -/
theorem record_cases (e : ErrReg) (c : ErrCode) :
    (e.code = .none ∧ e.record c = { e with code := c }) ∨ (e.code ≠ .none ∧ e.record c = { e with multi := true }) := by
  by_cases h : e.code = .none <;> simp [ErrReg.record, h]

/-! Command checks. -/

/-- All the BUSY check can do: it records E_BUSY, or it runs the command's rule. -/
theorem unlessBusy_cases (rule : State → Result) (s : State) :
    (s.busy = true ∧ unlessBusy rule s = .next (s.raise .busy)) ∨ (s.busy = false ∧ unlessBusy rule s = rule s) := by
  cases h : s.busy <;> simp [unlessBusy, h]

/-- All the precondition check can do: it runs the step, or it faults. -/
theorem whenSequenceOk_cases (rule : State → State) (s : State) :
    (s.sequenceOk = true ∧ whenSequenceOk rule s = .next (rule s)) ∨
      (s.sequenceOk = false ∧ whenSequenceOk rule s = .fault .brokenSequence) := by
  cases h : s.sequenceOk <;> simp [whenSequenceOk, h]

theorem thenDo_eq_next {r : Result} {f : State → State} {t : State} :
    thenDo r f = .next t ↔ ∃ u, r = .next u ∧ f u = t := by
  cases r <;> simp [thenDo]

end Sys2Proof.Machine
end

