-- ==== Sys2Proof/Laws/Transitions.lean ====
section
/-! SUPPORT. Everything a step can do, said once: `Change c u s'` lists the changes, each with its cause and the guard under
which it happens, and `step_change` says that a step makes one of them on the state without its event, for the cause that
the event is. Invariants and whole-machine claims follow by cases on `Change`, with no unfolding of `step`. -/

namespace Sys2Proof.Machine

/-- Who makes a change. -/
inductive Cause where
  | core
  | reset
  | command (i : Instr)
  | errWrite
  | other
  deriving DecidableEq, Repr

/-- The changes of state that one step can make (R198 and the rules it names). -/
inductive Change (u : State) : Cause → State → Prop where
  | same (c : Cause) (hc : c ≠ .reset ∧ c ≠ .command .init ∧ c ≠ .errWrite) (hcore : c = .core → u.busy = false) :
      Change u c u
  | recorded (c : Cause) (hc : c ≠ .core ∧ c ≠ .reset ∧ c ≠ .command .init ∧ c ≠ .errWrite) (e : ErrCode)
      (he : e ≠ .none) : Change u c (u.raise e)
  | errCleared : Change u .errWrite (u.setErr .clear)
  | loaded (j : Nat) (v : Word) (hj : j < 16) (hb : u.busy = false) (hp : u.phase = .load) :
      Change u .other ((u.setWord j v).setLoaded (markLoaded u.wloaded j))
  | inited : Change u (.command .init) (initState u)
  | wasReset : Change u .reset (hwReset u)
  | started (hb : u.busy = false) (hp : u.phase = .load) (hw : u.wloaded = 0xFFFF#16) :
      Change u (.command .start) (seedStep u)
  | ranFromLoad (hb : u.busy = false) (hp : u.phase = .load) (hw : u.wloaded = 0xFFFF#16) :
      Change u (.command .run) ((seedStep u).setBusy true)
  | ranOn (hb : u.busy = false) (hp : u.phase ≠ .load) : Change u (.command .run) (u.setBusy true)
  | scheduled (hb : u.busy = false) (hp : u.phase = .sched) (ho : u.sequenceOk = true) :
      Change u (.command .sched) (schedNext u)
  | rounded (hb : u.busy = false) (hp : u.phase = .compress) (ho : u.sequenceOk = true) :
      Change u (.command .round) (roundNext u)
  | finaled (hb : u.busy = false) (hp : u.phase = .roundsDone) (ho : u.sequenceOk = true) :
      Change u (.command .final) (finalNext u)
  | coreScheduled (hb : u.busy = true) (hp : u.phase = .sched) (ho : u.sequenceOk = true) :
      Change u .core (schedNext u)
  | coreRounded (hb : u.busy = true) (hp : u.phase = .compress) (ho : u.sequenceOk = true) :
      Change u .core (roundNext u)
  | coreFinaled (hb : u.busy = true) (hp : u.phase = .roundsDone) (ho : u.sequenceOk = true) :
      Change u .core ((finalNext u).setBusy false)

/-- What the next event is, for each cause. -/
def State.hasCause (s : State) : Cause → Prop
  | .core      => s.coreIsNext
  | .reset     => ∃ rest, s.inputs = .reset :: rest
  | .command i => ∃ v, decode v = .ok i ∧ s.issues v
  | .errWrite  => ∃ v rest, s.inputs = .access { we := true, off := 0x00C#12, size := .word, wdata := v } :: rest
  | .other     => ∃ x rest, s.inputs = .access x :: rest

theorem schedStep_eq_next {s t : State} : schedStep s = .next t ↔ s.sequenceOk = true ∧ schedNext s = t := by
  rcases whenSequenceOk_cases schedNext s with ⟨h, e⟩ | ⟨h, e⟩ <;> simp [schedStep, e, h]

theorem roundStep_eq_next {s t : State} : roundStep s = .next t ↔ s.sequenceOk = true ∧ roundNext s = t := by
  rcases whenSequenceOk_cases roundNext s with ⟨h, e⟩ | ⟨h, e⟩ <;> simp [roundStep, e, h]

theorem finalStep_eq_next {s t : State} : finalStep s = .next t ↔ s.sequenceOk = true ∧ finalNext s = t := by
  rcases whenSequenceOk_cases finalNext s with ⟨h, e⟩ | ⟨h, e⟩ <;> simp [finalStep, e, h]

/-- Everything a command can do. -/
theorem exec_change {i : Instr} {u t : State} (h : exec i u = .next t) : Change u (.command i) t := by
  cases i with
  | init =>
    obtain rfl : initState u = t := by simpa [exec, execInit] using h
    exact .inited
  | nop =>
    rcases unlessBusy_cases nopRule u with ⟨hb, e⟩ | ⟨hb, e⟩ <;> simp only [exec, execNop, e] at h <;>
      obtain rfl := Host.Outcome.next.inj h
    · exact .recorded _ (by simp) .busy (by decide)
    · exact .same _ (by simp) (by simp)
  | start =>
    rcases unlessBusy_cases startRule u with ⟨hb, e⟩ | ⟨hb, e⟩ <;> simp only [exec, execStart, e] at h
    · obtain rfl := Host.Outcome.next.inj h; exact .recorded _ (by simp) .busy (by decide)
    · unfold startRule at h
      split at h <;> obtain rfl := Host.Outcome.next.inj h
      · exact .recorded _ (by simp) .seq (by decide)
      · rename_i hc
        simp only [not_or, not_not, Bool.not_eq_false, allLoaded_iff] at hc
        exact .started hb hc.1 hc.2
  | sched =>
    rcases unlessBusy_cases schedRule u with ⟨hb, e⟩ | ⟨hb, e⟩ <;> simp only [exec, execSched, e] at h
    · obtain rfl := Host.Outcome.next.inj h; exact .recorded _ (by simp) .busy (by decide)
    · unfold schedRule at h
      split at h
      · obtain ⟨ho, rfl⟩ := schedStep_eq_next.mp h; exact .scheduled hb ‹_› ho
      · obtain rfl := Host.Outcome.next.inj h; exact .recorded _ (by simp) .seq (by decide)
  | round =>
    rcases unlessBusy_cases roundRule u with ⟨hb, e⟩ | ⟨hb, e⟩ <;> simp only [exec, execRound, e] at h
    · obtain rfl := Host.Outcome.next.inj h; exact .recorded _ (by simp) .busy (by decide)
    · unfold roundRule at h
      split at h
      · obtain ⟨ho, rfl⟩ := roundStep_eq_next.mp h; exact .rounded hb ‹_› ho
      · obtain rfl := Host.Outcome.next.inj h; exact .recorded _ (by simp) .seq (by decide)
  | final =>
    rcases unlessBusy_cases finalRule u with ⟨hb, e⟩ | ⟨hb, e⟩ <;> simp only [exec, execFinal, e] at h
    · obtain rfl := Host.Outcome.next.inj h; exact .recorded _ (by simp) .busy (by decide)
    · unfold finalRule at h
      split at h
      · obtain ⟨ho, rfl⟩ := finalStep_eq_next.mp h; exact .finaled hb ‹_› ho
      · obtain rfl := Host.Outcome.next.inj h; exact .recorded _ (by simp) .seq (by decide)
  | run =>
    rcases unlessBusy_cases runRule u with ⟨hb, e⟩ | ⟨hb, e⟩ <;> simp only [exec, execRun, e] at h
    · obtain rfl := Host.Outcome.next.inj h; exact .recorded _ (by simp) .busy (by decide)
    · unfold runRule at h
      split at h
      · split at h <;> obtain rfl := Host.Outcome.next.inj h
        · exact .ranFromLoad hb ‹_› ((allLoaded_iff u).mp ‹_›)
        · exact .recorded _ (by simp) .seq (by decide)
      · obtain rfl := Host.Outcome.next.inj h; exact .ranOn hb ‹_›

/-- Everything a core micro-step can do. -/
theorem coreStep_change {u t : State} (hb : u.busy = true) (h : coreStep u = .next t) : Change u .core t := by
  unfold coreStep at h
  split at h
  · cases h
  · obtain ⟨ho, rfl⟩ := schedStep_eq_next.mp h; exact .coreScheduled hb ‹_› ho
  · obtain ⟨ho, rfl⟩ := roundStep_eq_next.mp h; exact .coreRounded hb ‹_› ho
  · obtain ⟨v, hv, rfl⟩ := thenDo_eq_next.mp h
    obtain ⟨ho, rfl⟩ := finalStep_eq_next.mp hv
    exact .coreFinaled hb ‹_› ho

/-- Everything a turn of the core can do. -/
theorem coreTurn_change {u t : State} (h : coreTurn u = .next t) : Change u .core t := by
  unfold coreTurn at h
  split at h
  · exact coreStep_change ‹_› h
  · obtain rfl := Host.Outcome.next.inj h; exact .same _ (by simp) (by simp_all)

/-- Everything a word load can do. -/
theorem wordLoad_change {j : Nat} (hj : j < 16) (v : Word) (u : State) : Change u .other (wordLoad j v u) := by
  unfold wordLoad
  split
  · exact .recorded _ (by simp) .busy (by decide)
  · split
    · exact .recorded _ (by simp) .seq (by decide)
    · exact .loaded j v hj (by simp_all) (by simp_all)

/-- A legal read changes ERR at most, and only by recording E_STALE. -/
theorem readTarget_state (g : Target) (u : State) : (readTarget g u).1 = u ∨ (readTarget g u).1 = u.raise .stale := by
  cases g with
  | schedWord j => by_cases h : u.valid j <;> simp [readTarget, wordRead, h]
  | _ => exact .inl rfl

/-- Everything a legal write can do, and what was written where it is no plain refusal. -/
theorem writeTarget_change {g : Target} {v : Word} {u t : State} (h : writeTarget g v u = .next t) :
    Change u .other t ∨ (g = .err ∧ Change u .errWrite t) ∨
      (g = .cmd ∧ ∃ i, decode v = .ok i ∧ Change u (.command i) t) := by
  unfold writeTarget at h
  split at h
  · obtain rfl := Host.Outcome.next.inj h; exact .inl (.recorded _ (by simp) .ro (by decide))
  · rename_i hro
    cases g with
    | cmd =>
      simp only [cmdWrite] at h
      split at h
      · obtain rfl := Host.Outcome.next.inj h; exact .inl (.recorded _ (by simp) .illegal (by decide))
      · exact .inr (.inr ⟨rfl, _, ‹_›, exec_change h⟩)
    | err => obtain rfl := Host.Outcome.next.inj h; exact .inr (.inl ⟨rfl, .errCleared⟩)
    | schedWord j =>
      obtain rfl := Host.Outcome.next.inj h
      exact .inl (wordLoad_change (by simpa [Target.readOnly] using hro) v u)
    | _ => simp [Target.readOnly] at hro

/-- The observation registers are none of CMD and ERR. -/
theorem obsTarget_ne (n : Nat) : obsTarget n ≠ .cmd ∧ obsTarget n ≠ .err := by
  unfold obsTarget; split <;> decide

/-- Which branch of the decode's chain answered. -/
theorem ite_eq_some {p : Prop} [Decidable p] {a b : Option Target} {g : Target} :
    (if p then a else b) = some g ↔ (p ∧ a = some g) ∨ (¬ p ∧ b = some g) := by
  by_cases h : p <;> simp [h]

/-- CMD and ERR stand at one word number each (R37). -/
theorem targetAt_cmd_err {n : Nat} : (targetAt n = some .cmd → n = 1) ∧ (targetAt n = some .err → n = 3) := by
  refine ⟨fun h => ?_, fun h => ?_⟩ <;>
    simp only [targetAt, ite_eq_some, Option.some.injEq, reduceCtorEq, and_false, false_or, (obsTarget_ne _).1,
      (obsTarget_ne _).2, or_false, and_true] at h <;> tauto

/-- CMD and ERR stand at one offset each (R37). -/
theorem target_cmd_err {off : BitVec 12} :
    (target off = some .cmd → off = 0x004) ∧ (target off = some .err → off = 0x00C#12) := by
  unfold target
  refine ⟨fun h => ?_, fun h => ?_⟩ <;> split at h <;> try cases h
  · have := targetAt_cmd_err.1 h
    exact BitVec.eq_of_toNat_eq (by simp; omega)
  · have := targetAt_cmd_err.2 h
    exact BitVec.eq_of_toNat_eq (by simp; omega)

/-- A transaction that reaches CMD or ERR is a full word at that register's offset (R64, R100). -/
theorem reaches_cmd_err {x : Access} :
    (x.reaches = some .cmd → x.off = 0x004#12 ∧ x.size = .word) ∧ (x.reaches = some .err → x.off = 0x00C#12 ∧ x.size = .word) := by
  cases hs : x.size <;> simp only [Access.reaches, hs, reduceCtorEq, false_implies, and_self, and_true]
  exact target_cmd_err

/-- Everything a transaction can do, on the state with some value on the bus port, with its cause. -/
theorem access_change {x : Access} {s u t : State} (h : access x u = .next t)
    (hs : ∃ rest, s.inputs = .access x :: rest) : ∃ r c, s.hasCause c ∧ Change (u.setReply r) c t := by
  obtain ⟨rest, hs⟩ := hs
  unfold access at h
  split at h
  · obtain rfl := Host.Outcome.next.inj h
    exact ⟨if x.we then .ack else .rdata 0#32, .other, ⟨x, rest, hs⟩, .recorded _ (by simp) .addr (by decide)⟩
  · rename_i g hg
    split at h
    · rename_i hwe
      obtain ⟨we, off, size, wd⟩ := x
      simp only at hwe
      subst hwe
      rcases writeTarget_change h with h1 | ⟨rfl, h1⟩ | ⟨rfl, i, hd, h1⟩
      · exact ⟨.ack, .other, ⟨_, rest, hs⟩, h1⟩
      · obtain ⟨ho, hz⟩ := reaches_cmd_err.2 hg
        simp only at ho hz
        subst ho hz
        exact ⟨.ack, .errWrite, ⟨_, rest, hs⟩, h1⟩
      · obtain ⟨ho, hz⟩ := reaches_cmd_err.1 hg
        simp only at ho hz
        subst ho hz
        exact ⟨.ack, .command i, ⟨_, hd, rest, hs⟩, h1⟩
    · obtain rfl := Host.Outcome.next.inj h
      refine ⟨.rdata (readTarget g u).2, .other, ⟨x, rest, hs⟩, ?_⟩
      rcases readTarget_state g u with e | e <;> simp only [answerRead, e]
      · exact .same _ (by simp) (by simp)
      · exact .recorded _ (by simp) .stale (by decide)

/-- Everything a step can do: one of the listed changes, for the cause its event is, on the state without its event and with
some value on the bus port. -/
theorem step_change {s s' : State} (h : step s = .next s') :
    ∃ rest r c, s.hasCause c ∧ Change ((s.setInputs rest).setReply r) c s' := by
  unfold step at h
  split at h
  · rename_i hi; exact ⟨s.inputs, .quiet, .core, .inl hi, coreTurn_change h⟩
  · rename_i rest hi; exact ⟨rest, .quiet, .core, .inr ⟨rest, hi⟩, coreTurn_change h⟩
  · rename_i rest hi
    obtain rfl := Host.Outcome.next.inj h
    exact ⟨rest, .quiet, .reset, ⟨rest, hi⟩, .wasReset⟩
  · rename_i x rest hi
    obtain ⟨r, c, hc, hr⟩ := access_change h ⟨rest, hi⟩
    exact ⟨rest, r, c, hc, hr⟩

end Sys2Proof.Machine
end

