-- ==== Sys2Proof/Laws/Bus.lean ====
section
/-! SUPPORT. The bus, one lemma per piece: which register an offset reaches, and what a transaction does once that is known,
so that no later proof unfolds the address decode. -/

namespace Sys2Proof.Machine

theorem target_of_word_number {off : BitVec 12} {n : Nat} (h : off.toNat = 4 * n) : target off = targetAt n := by
  simp [target, h]

/-- Schedule word j stands at 0x100 + 4j (R37). -/
theorem target_schedWord {j : Nat} (hj : j < 64) :
    target (BitVec.ofNat 12 (0x100 + 4 * j)) = some (.schedWord j) := by
  rw [target_of_word_number (n := 64 + j) (by rw [BitVec.toNat_ofNat, Nat.mod_eq_of_lt (by omega)]; omega)]
  unfold targetAt
  repeat rw [if_neg (by omega)]
  rw [if_pos (by omega), Nat.add_sub_cancel_left]

/-- Round constant i stands at 0x200 + 4i (R37). -/
theorem target_kWord {i : Nat} (hi : i < 64) : target (BitVec.ofNat 12 (0x200 + 4 * i)) = some (.kWord i) := by
  rw [target_of_word_number (n := 128 + i) (by rw [BitVec.toNat_ofNat, Nat.mod_eq_of_lt (by omega)]; omega)]
  unfold targetAt
  repeat rw [if_neg (by omega)]
  rw [if_pos (by omega), Nat.add_sub_cancel_left]

/-- H0..H7 stand at 0x040 + 4k (R37). -/
theorem target_hash {k : Nat} (hk : k < 8) : target (BitVec.ofNat 12 (0x040 + 4 * k)) = some (.hash k) := by
  rw [target_of_word_number (n := 16 + k) (by rw [BitVec.toNat_ofNat, Nat.mod_eq_of_lt (by omega)]; omega)]
  unfold targetAt
  repeat rw [if_neg (by omega)]
  rw [if_pos (by omega), Nat.add_sub_cancel_left]

/-- A full-word read of a mapped register. -/
theorem access_read {off : BitVec 12} {g : Target} (h : target off = some g) (d : Word) (s : State) :
    access { we := false, off := off, size := .word, wdata := d } s = .next (answerRead (readTarget g s)) := by
  simp [access, Access.reaches, h]

/-- A full-word write of a mapped register. -/
theorem access_write {off : BitVec 12} {g : Target} (h : target off = some g) (v : Word) (s : State) :
    access { we := true, off := off, size := .word, wdata := v } s = writeTarget g v (s.setReply .ack) := by
  simp [access, Access.reaches, h]

/-- A transaction that reaches no register. -/
theorem access_unmapped {x : Access} (h : x.reaches = none) (s : State) :
    access x s = .next ((s.raise .addr).setReply (if x.we then .ack else .rdata 0#32)) := by
  simp [access, h]

/-- The write of a command word reaches the command decoder (R190). -/
theorem access_cmd (v : Word) (s : State) : access (cmdAccess v) s = cmdWrite v (s.setReply .ack) := by
  rw [cmdAccess, access_write (g := .cmd) (by decide)]
  rfl

theorem cmdWrite_ok {v : Word} {i : Instr} (h : decode v = .ok i) (s : State) : cmdWrite v s = exec i s := by
  simp [cmdWrite, h]

theorem cmdWrite_error {v : Word} {e : IllegalWord} (h : decode v = .error e) (s : State) :
    cmdWrite v s = .next (s.raise .illegal) := by
  simp [cmdWrite, h]

/-- The step of a transaction, of a core turn and of the reset pin. -/
theorem step_access {s : State} {x : Access} {rest : List Event} (h : s.inputs = .access x :: rest) :
    step s = access x (s.setInputs rest) := by
  simp [step, h]

theorem step_core {s : State} {rest : List Event} (h : s.inputs = .core :: rest) :
    step s = coreTurn ((s.setInputs rest).setReply .quiet) := by
  simp [step, h]

theorem step_alone {s : State} (h : s.inputs = []) : step s = coreTurn (s.setReply .quiet) := by
  simp [step, h]

theorem step_reset {s : State} {rest : List Event} (h : s.inputs = .reset :: rest) :
    step s = .next (hwReset ((s.setInputs rest).setReply .quiet)) := by
  simp [step, h]

end Sys2Proof.Machine
end

