-- ==== Sys2Proof/Laws/History.lean ====
section
/-! SUPPORT. Which event a step's cause is, what a history becomes at each event, and how a followed list of events falls
apart; and that validity of a word does not depend on what the words hold. -/

namespace Sys2Proof.Machine

@[simp] theorem nextEvent_setInputs_cons (s : State) (e : Event) (l : List Event) :
    (s.setInputs (e :: l)).nextEvent = e := rfl

@[simp] theorem nextEvent_setInputs_nil (s : State) : (s.setInputs []).nextEvent = .core := rfl

theorem nextEvent_of_inputs {s : State} {e : Event} {l : List Event} (h : s.inputs = e :: l) : s.nextEvent = e := by
  simp [State.nextEvent, h]

theorem nextEvent_of_coreIsNext {s : State} (h : s.coreIsNext) : s.nextEvent = .core := by
  obtain h | ⟨l, h⟩ := h <;> simp [State.nextEvent, h]

theorem nextEvent_of_issues {s : State} {v : Word} (h : s.issues v) : s.nextEvent = .access (cmdAccess v) := by
  obtain ⟨l, h⟩ := h
  exact nextEvent_of_inputs h

@[simp] theorem startsMessage_core : Event.core.startsMessage = false := rfl

@[simp] theorem startsMessage_reset : Event.reset.startsMessage = true := rfl

theorem cmdAccess_inj {v w : Word} : cmdAccess v = cmdAccess w ↔ v = w := by simp [cmdAccess]

@[simp] theorem startsMessage_cmdAccess (v : Word) :
    (Event.access (cmdAccess v)).startsMessage = decide (v = 0x01000000#32) := by
  simp [Event.startsMessage, cmdAccess_inj]

/-- When an event makes a phase's step, said for each of the two agents that can. -/
theorem performs_iff {e : Event} {v : Word} {p : Phase} {s : State} :
    e.performs v p s = true ↔
      s.phase = p ∧ ((s.busy = true ∧ e = .core) ∨ (s.busy = false ∧ e = .access (cmdAccess v))) := by
  cases h : s.busy <;> simp [Event.performs, h]

theorem inputs_of_nextEvent {s : State} {e : Event} (h : s.nextEvent = e) (he : e ≠ .core) :
    ∃ rest, s.inputs = e :: rest := by
  unfold State.nextEvent at h
  cases hi : s.inputs with
  | nil => simp [hi] at h; exact absurd h.symm he
  | cons a l => simp [hi] at h; exact ⟨l, by rw [h]⟩

/-- The core's turn, whether listed or not. -/
theorem step_of_core {s : State} (h : s.nextEvent = .core) :
    ∃ rest, step s = coreTurn ((s.setInputs rest).setReply .quiet) := by
  cases hi : s.inputs with
  | nil => exact ⟨s.inputs, step_alone hi⟩
  | cons a l => obtain rfl : a = .core := by simpa [State.nextEvent, hi] using h
                exact ⟨l, step_core hi⟩

/-- The host's write of a command word. -/
theorem step_of_command {s : State} {v : Word} {i : Instr} (h : s.nextEvent = .access (cmdAccess v))
    (hd : decode v = .ok i) : ∃ rest, step s = exec i ((s.setInputs rest).setReply .ack) := by
  obtain ⟨rest, hi⟩ := inputs_of_nextEvent h (by simp)
  exact ⟨rest, by rw [step_access hi, access_cmd, cmdWrite_ok hd]⟩

/-- The step of an event that starts a message (R192, R250). -/
theorem step_of_startsMessage {s : State} (h : s.nextEvent.startsMessage = true) :
    ∃ rest r, step s = .next (initState ((s.setInputs rest).setReply r)) ∨
      step s = .next (hwReset ((s.setInputs rest).setReply r)) := by
  cases he : s.nextEvent with
  | core => simp [he] at h
  | reset =>
    obtain ⟨rest, hi⟩ := inputs_of_nextEvent he (by simp)
    exact ⟨rest, .quiet, .inr (step_reset hi)⟩
  | access x =>
    obtain rfl : x = cmdAccess 0x01000000#32 := by simpa [he, Event.startsMessage] using h
    obtain ⟨rest, hs⟩ := step_of_command he (i := .init) (by decide)
    exact ⟨rest, .ack, .inl hs⟩

/-- The step of an event that performs a schedule step (R153, R154, R194). -/
theorem step_of_performs_sched {s : State} (h : s.nextEvent.performs 0x03000000#32 .sched s = true) :
    ∃ rest r, step s = schedStep ((s.setInputs rest).setReply r) := by
  obtain ⟨hp, ⟨hb, he⟩ | ⟨hb, he⟩⟩ := performs_iff.mp h
  · obtain ⟨rest, hs⟩ := step_of_core he
    exact ⟨rest, .quiet, by rw [hs]; simp [coreTurn, coreStep, hb, hp]⟩
  · obtain ⟨rest, hs⟩ := step_of_command he (i := .sched) (by decide)
    exact ⟨rest, .ack, by rw [hs]; simp [exec, execSched, unlessBusy, schedRule, hb, hp]⟩

/-- The step of an event that performs a round step (R172, R173, R194). -/
theorem step_of_performs_round {s : State} (h : s.nextEvent.performs 0x04000000#32 .compress s = true) :
    ∃ rest r, step s = roundStep ((s.setInputs rest).setReply r) := by
  obtain ⟨hp, ⟨hb, he⟩ | ⟨hb, he⟩⟩ := performs_iff.mp h
  · obtain ⟨rest, hs⟩ := step_of_core he
    exact ⟨rest, .quiet, by rw [hs]; simp [coreTurn, coreStep, hb, hp]⟩
  · obtain ⟨rest, hs⟩ := step_of_command he (i := .round) (by decide)
    exact ⟨rest, .ack, by rw [hs]; simp [exec, execRound, unlessBusy, roundRule, hb, hp]⟩

/-- The step of an event that performs a final step, after which BUSY is 0 either way (R174, R175, R194). -/
theorem step_of_performs_final {s : State} (h : s.nextEvent.performs 0x05000000#32 .roundsDone s = true) :
    ∃ rest r, step s = finalStep ((s.setInputs rest).setReply r) ∨
      step s = thenDo (finalStep ((s.setInputs rest).setReply r)) (·.setBusy false) := by
  obtain ⟨hp, ⟨hb, he⟩ | ⟨hb, he⟩⟩ := performs_iff.mp h
  · obtain ⟨rest, hs⟩ := step_of_core he
    exact ⟨rest, .quiet, .inr (by rw [hs]; simp [coreTurn, coreStep, hb, hp])⟩
  · obtain ⟨rest, hs⟩ := step_of_command he (i := .final) (by decide)
    exact ⟨rest, .ack, .inl (by rw [hs]; simp [exec, execFinal, unlessBusy, finalRule, hb, hp])⟩

/-- What the next event is for each cause of a change, as far as the cause fixes it. -/
theorem nextEvent_of_hasCause {s : State} {c : Cause} (h : s.hasCause c) :
    (c = .core → s.nextEvent = .core) ∧ (c = .reset → s.nextEvent = .reset) ∧
      ∀ i, c = .command i → ∃ v, decode v = .ok i ∧ s.nextEvent = .access (cmdAccess v) := by
  refine ⟨?_, ?_, ?_⟩
  · rintro rfl; exact nextEvent_of_coreIsNext h
  · rintro rfl; obtain ⟨_, hi⟩ := h; exact nextEvent_of_inputs hi
  · rintro i rfl; obtain ⟨v, hd, hi⟩ := h; exact ⟨v, hd, nextEvent_of_issues hi⟩

/-- A history after an event that starts no message. -/
theorem History.after_other {e : Event} (he : e.startsMessage = false) (h : History) (s : State) :
    h.after e s =
      { blocks := if e.performs 0x05000000#32 .roundsDone s then h.blocks ++ [s.blockInProgress] else h.blocks
        errWritten := h.errWritten || e.writesErr
        errReported := h.errReported || e.reportsError s } := by
  simp [History.after, he]

theorem History.after_start {e : Event} (he : e.startsMessage = true) (h : History) (s : State) :
    h.after e s = .fresh := by
  simp [History.after, he]

@[simp] theorem follow_nil (s : State) (h : History) : follow [] s h = some (s, h) := rfl

/-- One event, then the rest. -/
theorem follow_cons_eq_some {e : Event} {l : List Event} {s : State} {h : History} {r : State × History} :
    follow (e :: l) s h = some r ↔ ∃ t, step (s.setInputs [e]) = .next t ∧ follow l t (h.after e s) = some r := by
  rw [follow]
  cases step (s.setInputs [e]) <;> simp [nextOf]

/-- Following two lists in turn. -/
theorem follow_append (l m : List Event) (s : State) (h : History) :
    follow (l ++ m) s h = (follow l s h).bind (fun r => follow m r.1 r.2) := by
  induction l generalizing s h with
  | nil => rfl
  | cons e l ih =>
    simp only [List.cons_append, follow]
    cases nextOf (step (s.setInputs [e])) <;> simp [ih]

/-- Validity looks at WLOADED, PHASE and s only (R24). -/
@[simp] theorem valid_setSchedule (s : State) (w : Vector Word 64) (j : Nat) : (s.setSchedule w).valid j = s.valid j := rfl

/-- A memory that holds the valid words holds what a valid word reads as. -/
theorem wordAt_of_validWordsIn {s : State} {w : Vector Word 64} (h : s.validWordsIn w) {j : Nat} (hj : s.valid j = true) :
    (s.setSchedule w).wordAt j = s.wordAt j := h j hj

theorem validWordsIn_self (s : State) : s.validWordsIn s.w := fun _ _ => rfl

/-- A complete message shows it in the state and in the history. -/
theorem messageCompleted_iff {n : Nat} {s : State} {h : History} :
    messageCompleted n s h = true ↔ h.blocks.length = n ∧ h.errWritten = false ∧ s.blkcnt = BitVec.ofNat 32 n ∧
      s.phase = .load ∧ s.busy = false ∧ s.err.code = .none := by
  simp [messageCompleted, State.messageComplete, and_assoc]

theorem completedDigest_eq_some {n : Nat} {s : State} {h : History} {d : BitVec 256} :
    completedDigest n s h = some d ↔ messageCompleted n s h = true ∧ digest s.hs = d := by
  simp [completedDigest]

end Sys2Proof.Machine
end

