-- ==== Sys2Proof/Laws/PerInstr.lean ====
section
/-! SUPPORT. Statements about every command as syntax, one lemma per constructor. CommandWordFormat: the command's word, taken
apart as CMD32 (spec/30_encoding.md R100), is a legal word: RSVD is 0 and OPC is an assigned opcode (R102). -/

namespace Sys2Proof.Laws

/-- The command's word has the one format, with legal fields (R100, R102). -/
def CommandWordFormat.Statement (i : Instr) : Prop :=
  (fieldsOf (encode i)).wf = true ∧ wordOf (fieldsOf (encode i)) = encode i

theorem CommandWordFormat.nop : CommandWordFormat.Statement .nop := by unfold CommandWordFormat.Statement; decide

theorem CommandWordFormat.init : CommandWordFormat.Statement .init := by unfold CommandWordFormat.Statement; decide

theorem CommandWordFormat.start : CommandWordFormat.Statement .start := by unfold CommandWordFormat.Statement; decide

theorem CommandWordFormat.sched : CommandWordFormat.Statement .sched := by unfold CommandWordFormat.Statement; decide

theorem CommandWordFormat.round : CommandWordFormat.Statement .round := by unfold CommandWordFormat.Statement; decide

theorem CommandWordFormat.final : CommandWordFormat.Statement .final := by unfold CommandWordFormat.Statement; decide

theorem CommandWordFormat.run : CommandWordFormat.Statement .run := by unfold CommandWordFormat.Statement; decide

end Sys2Proof.Laws
end

