-- ==== Sys2Proof/Tests/Slice0.lean ====
section
/-! SUPPORT. The model's own tests: well-formedness smoke tests, decoding of words written out from spec/30_encoding.md R102,
one step per test against values that the spec prints (spec/95_test_vectors.md; each theorem names the place), and for every
statement with hypotheses a witness that meets them. Every expected value is the spec's, none the model's. -/

namespace Sys2Proof.Tests

open Sys2Proof.Machine

/-! Well-formedness: an ill-formed term for each check (R103). -/

theorem test_reserved_field_refused : ({ opc := 0x02#8, rsvd := 0x000001#24 } : Cmd32).reservedZero = false ∧
    ({ opc := 0x02#8, rsvd := 0x000001#24 } : Cmd32).wf = false := by decide

theorem test_unassigned_opcode_refused : ({ opc := 0x07#8, rsvd := 0x000000#24 } : Cmd32).opcodeAssigned = false ∧
    ({ opc := 0x07#8, rsvd := 0x000000#24 } : Cmd32).wf = false := by decide

theorem test_legal_word_accepted : ({ opc := 0x06#8, rsvd := 0x000000#24 } : Cmd32).wf = true := by decide

theorem test_platform_needs_distinct_windows :
    ({ pages := [3, 3], busTiming := fun _ => 1 } : Config.Platform).wf = false ∧
    ({ pages := [], busTiming := fun _ => 1 } : Config.Platform).wf = false ∧
    ({ pages := [3, 4], busTiming := fun _ => 1 } : Config.Platform).wf = true := by decide

/-! Decoding: OPC in bits 31..24, RSVD in bits 23..0, written out bit by bit from R100 and R102. -/

theorem test_decode_nop : decodeTableWord 32 0b00000000_00000000_00000000_00000000 = some .nop := by decide

theorem test_decode_init : decodeTableWord 32 0b00000001_00000000_00000000_00000000 = some .init := by decide

theorem test_decode_start : decodeTableWord 32 0b00000010_00000000_00000000_00000000 = some .start := by decide

theorem test_decode_sched : decodeTableWord 32 0b00000011_00000000_00000000_00000000 = some .sched := by decide

theorem test_decode_round : decodeTableWord 32 0b00000100_00000000_00000000_00000000 = some .round := by decide

theorem test_decode_final : decodeTableWord 32 0b00000101_00000000_00000000_00000000 = some .final := by decide

theorem test_decode_run : decodeTableWord 32 0b00000110_00000000_00000000_00000000 = some .run := by decide

theorem test_decode_rejects_by_name :
    (match decode 0x00000001#32 with | .error .reservedNonzero => true | _ => false) = true ∧
    (match decode 0x07000000#32 with | .error .opcodeReserved => true | _ => false) = true := by decide

/-! The functions, on the corner rows of 95_test_vectors.md section 2.1. -/

theorem test_rotr32_and_shr : rotr32 0x12345678#32 7 = 0xf02468ac#32 ∧ rotr32 0x12345678#32 31 = 0x2468acf0#32 ∧
    shr 0xffffffff#32 3 = 0x1fffffff#32 := by decide

theorem test_sigmas : smallSigma0 0x12345678#32 = 0xe7fce6ee#32 ∧ smallSigma1 0x12345678#32 = 0xa1f78649#32 ∧
    bigSigma0 0x12345678#32 = 0x66146474#32 ∧ bigSigma1 0x12345678#32 = 0x3561abda#32 := by decide

theorem test_ch_and_maj : ch 0xf0f0f0f0#32 0xcccccccc#32 0xaaaaaaaa#32 = 0xcacacaca#32 ∧
    maj 0xf0f0f0f0#32 0xcccccccc#32 0xaaaaaaaa#32 = 0xe8e8e8e8#32 := by decide

/-! States to step from. -/

/-- IV as working variables, as START leaves them after reset (R170's example). -/
def ivVars : WorkVars := seedVars ivRom

/-- Sixteen words of the "abc" block, then zeros (V2). -/
def abcWords : Vector Word 64 := ((Vector.replicate 64 0#32).set 0 0x61626380#32).set 15 0x00000018#32

/-- The "abc" block loaded after reset (V2). -/
def abcLoaded : State := { State.reset with w := abcWords, wloaded := 0xFFFF#16 }

/-- The "abc" block after START, with word i to compute next. -/
def abcSched (i : BitVec 7) (busy : Bool) : State :=
  { abcLoaded with wv := ivVars, phase := .sched, sIdx := i, busy := busy }

/-- The "abc" block in COMPRESS, at round i. -/
def abcCompress (i : BitVec 7) (v : WorkVars) (busy : Bool) : State :=
  { abcLoaded with wv := v, phase := .compress, sIdx := 64#7, tIdx := i, busy := busy }

/-- The working variables of "abc" after round 63 (table R1, row 63). -/
def abcLast : WorkVars where
  a := 0x506e3058#32
  b := 0xd39a2165#32
  c := 0x04d24d6c#32
  d := 0xb85e2ce9#32
  e := 0x5ef50f24#32
  f := 0xfb121210#32
  g := 0x948d25b6#32
  h := 0x961f4894#32

/-- The "abc" block with all rounds done. -/
def abcDone (busy : Bool) : State :=
  { abcLoaded with wv := abcLast, phase := .roundsDone, sIdx := 64#7, tIdx := 64#7, busy := busy }

/-! One step per command. -/

/-- 2.7 rows 4 and 12: NOP changes nothing, and is E_BUSY during a RUN. -/
theorem test_nop : nextOf (exec .nop State.reset) = some State.reset ∧
    (nextOf (exec .nop (abcSched 16#7 true))).map (fun t => (t.err.word, t.status)) =
      some (0x00000003#32, 0x80001019#32) := by decide

/-- 2.7 rows 14 and 15: INIT during a RUN ends it, and keeps ERR = 0x00000102. -/
theorem test_init :
    (nextOf (exec .init { abcSched 46#7 true with err := { code := .seq, multi := true }, blkcnt := 1#32 })).map
      (fun t => (t.status, t.err.word, t.blkcnt, t.hashAt 0, t.wv.a)) =
      some (0x80000000#32, 0x00000102#32, 0#32, 0x6a09e667#32, 0#32) := by decide

/-- 2.7 rows 1 to 3: START after the loads, START too early, START twice. -/
theorem test_start :
    (nextOf (exec .start abcLoaded)).map (fun t => (t.status, t.wv)) = some (0x00001011#32, ivVars) ∧
    (nextOf (exec .start State.reset)).map (fun t => t.err.word) = some 0x00000002#32 ∧
    (nextOf (exec .start (abcSched 16#7 false))).map (fun t => t.err.word) = some 0x00000002#32 := by decide

/-- 2.4, table S1, row i = 17 (W[i-2] = 0x18): the step at s = 17 after W16 was computed. -/
theorem test_sched :
    (nextOf (exec .sched ((abcSched 17#7 false).setWord 16 0x61626380#32))).map
      (fun t => (t.ssig0, t.ssig1, t.wordAt 17, t.status)) =
      some (0x00000000#32, 0x000f0000#32, 0x000f0000#32, 0x00001211#32) := by decide

/-- 2.4: a block of ones, first SCHED: the sum wraps (corner b). And 2.4's last line: a 49th SCHED is E_SEQ. -/
theorem test_sched_wraps_and_ends :
    (nextOf (exec .sched { abcSched 16#7 false with w := Vector.replicate 64 0xffffffff#32 })).map
      (fun t => (t.ssig0, t.ssig1, t.wordAt 16)) = some (0x1fffffff#32, 0x003fffff#32, 0x203ffffc#32) ∧
    (nextOf (exec .sched (abcCompress 0#7 ivVars false))).map (fun t => t.err.word) = some 0x00000002#32 := by decide

/-- 2.5: round step 0 in detail. -/
theorem test_round :
    (nextOf (exec .round (abcCompress 0#7 ivVars false))).map (fun t => (t.obs.bsig1, t.obs.ch, t.obs.t1, t.obs.bsig0,
      t.obs.maj, t.obs.t2, t.wv.a, t.wv.b, t.wv.e, t.wv.h, t.status)) =
      some (0x3587272b#32, 0x1f85c98c#32, 0x54da50e8#32, 0xce20b47e#32, 0x3a6fe667#32, 0x08909ae5#32, 0x5d6aebcd#32,
        0x6a09e667#32, 0xfa2a4622#32, 0x1f83d9ab#32, 0x00014012#32) := by decide

/-- 2.5, corner cases: a..h = 1..8 with K[5] and W[5] = 0. -/
theorem test_round_corner :
    (nextOf (exec .round (abcCompress 5#7
      { a := 1#32, b := 2#32, c := 3#32, d := 4#32, e := 5#32, f := 6#32, g := 7#32, h := 8#32 } false))).map (fun t => (t.obs.t1, t.obs.t2, t.wv.a, t.wv.d, t.wv.e, t.wv.h)) =
      some (0x6e91147f#32, 0x40080403#32, 0xae991882#32, 3#32, 0x6e911483#32, 7#32) := by decide

/-- 2.6: the final addition of "abc". -/
theorem test_final :
    (nextOf (exec .final (abcDone false))).map (fun t => (t.hs, t.status, t.blkcnt, t.wloaded)) =
      some (#v[0xba7816bf#32, 0x8f01cfea#32, 0x414140de#32, 0x5dae2223#32, 0xb00361a3#32, 0x96177a9c#32, 0xb410ff61#32,
        0xf20015ad#32], 0x00000000#32, 1#32, 0#16) ∧
    (nextOf (exec .final State.reset)).map (fun t => t.err.word) = some 0x00000002#32 := by decide

/-- 2.7 rows 7 and 17: RUN after the loads, RUN with nothing loaded. -/
theorem test_run :
    (nextOf (exec .run abcLoaded)).map (fun t => (t.status, t.wv)) = some (0x00001019#32, ivVars) ∧
    (nextOf (exec .run State.reset)).map (fun t => (t.err.word, t.busy)) = some (0x00000002#32, false) := by decide

/-- 2.7 row 11: RUN in ROUNDS_DONE leaves one micro-step, the final step. -/
theorem test_run_from_rounds_done :
    (nextOf (exec .run (abcDone false))).map (fun t => (t.busy, t.microStepsLeft)) = some (true, 1) ∧
    (nextOf (coreStep (abcDone true))).map (fun t => (t.busy, t.status, t.hashAt 7)) =
      some (false, 0x00000000#32, 0xf20015ad#32) := by decide

/-! One transaction per test. -/

/-- 2.3 rows 1 and 3: a read of a word not loaded, and the load of W0. -/
theorem test_word_window :
    (nextOf (step (State.reset.setInputs [rd 0x100#12]))).map (fun t => (t.reply, t.err.word)) =
      some (.rdata 0#32, 0x00000006#32) ∧
    (nextOf (step (State.reset.setInputs [wr 0x100#12 0x61626380#32]))).map (fun t => (t.wordAt 0, t.wloaded)) =
      some (0x61626380#32, 0x0001#16) := by decide

/-- P3 lines 12, 14, 16, 18: E_ADDR for a misaligned and for a narrow write, E_RO, E_ADDR for a reserved offset. -/
theorem test_bus_errors :
    (nextOf (step (State.reset.setInputs [wr 0x002#12 0x01000000#32]))).map (fun t => t.err.word) = some 4#32 ∧
    (nextOf (step (State.reset.setInputs
      [.access { we := true, off := 0x004#12, size := .byte, wdata := 0x01000000#32 }]))).map (fun t => t.err.word) = some 4#32 ∧
    (nextOf (step (State.reset.setInputs [wr 0x040#12 0#32]))).map (fun t => t.err.word) = some 5#32 ∧
    (nextOf (step (State.reset.setInputs [rd 0x080#12]))).map (fun t => (t.reply, t.err.word)) =
      some (.rdata 0#32, 4#32) := by decide

/-- P3 lines 44 to 46: a load during RUN with an error pending only sets MULTI; 2.7 row 13: E_ILLEGAL beats E_BUSY. -/
theorem test_error_priorities :
    (nextOf (step { abcSched 16#7 true with err := { code := .busy, multi := false },
                                            inputs := [wr 0x100#12 0xffffffff#32] })).map (fun t => t.err.word) =
      some 0x00000103#32 ∧
    (nextOf (step { abcSched 16#7 true with inputs := [wr 0x004#12 0x07000000#32] })).map (fun t => t.err.word) =
      some 0x00000001#32 := by decide

/-- 2.2, and R37's reset column: K and ID reads. -/
theorem test_rom_and_id_reads :
    (nextOf (step (State.reset.setInputs [rd 0x2f8#12]))).map (fun t => t.reply) = some (.rdata 0xbef9a3f7#32) ∧
    (nextOf (step (State.reset.setInputs [rd 0x000#12]))).map (fun t => t.reply) = some (.rdata 0x53323536#32) := by decide

/-- V5: the one block of the empty message. -/
theorem test_empty_message_block : blockOf (padBits []) 0 = (Vector.replicate 16 0#32).set 0 0x80000000#32 := by
  decide +kernel

/-! Fetching, as the host does it. -/

theorem test_fetch_runs_the_command :
    nextOf (step (State.reset.withFetchWord 32 0x06000000)) = nextOf (exec .run (State.reset.setReply .ack)) := by decide

theorem test_core_step_is_step : Sys2Proof.core.step = step := rfl

/-! Witnesses: for every statement with hypotheses, a state and operands that meet all of them. -/

theorem witness_IllegalCommandWordOnlyRecordsIllegal :
    7 ≤ ((0x07000000#32).extractLsb' 24 8).toNat ∧ (0x00000001#32).extractLsb' 0 24 ≠ 0#24 := by decide

theorem witness_StepRunsTheDecodedCommand : decode 0x02000000#32 = .ok .start ∧
    decodeTableWord 32 0x02000000 = some .start ∧
    (abcLoaded.setInputs [.access (cmdAccess 0x02000000#32)]).inputs = .access (cmdAccess 0x02000000#32) :: [] :=
  ⟨rfl, by decide, rfl⟩

theorem witness_DecodeAndEncodeAgree : Instr.wf .run = true ∧ decode 0x06000000#32 = .ok .run := ⟨rfl, rfl⟩

theorem witness_RotateMovesEachBit : 0 < 1 ∧ 1 < 32 ∧ 31 < 32 ∧ 0 < 31 ∧ 31 < 32 ∧ 0 < 32 := by decide

theorem witness_ResetGivesEveryElementItsValue :
    ((abcDone true).setInputs [.reset]).inputs = .reset :: [] := rfl

theorem witness_AddressDecodeFollowsTheMap :
    target 0x2fc#12 = some (.kWord 63) ∧ target 0x300#12 = none ∧ target 0x13c#12 = some (.schedWord 15) ∧
    target 0x140#12 = some (.schedWord 16) := by decide

/-- Valid and not valid words at the boundaries j = 15, 16, 63, and R35 in COMPRESS and ROUNDS_DONE. -/
theorem witness_ScheduleReadReturnsOnlyValidWords :
    abcLoaded.valid 15 = true ∧ abcLoaded.valid 16 = false ∧ (abcSched 17#7 true).valid 16 = true ∧
    (abcSched 63#7 false).valid 63 = false ∧ State.reset.valid 0 = false ∧
    (abcCompress 63#7 ivVars false).Inv ∧ (abcDone true).Inv := by decide

theorem witness_DatapathReadsOnlyValidWords :
    (abcSched 16#7 false).Inv ∧ (abcSched 63#7 true).Inv ∧ (abcCompress 0#7 ivVars true).Inv ∧
    (abcCompress 63#7 ivVars false).Inv := ⟨by decide, by decide, by decide, by decide⟩

/-- A word that is not valid may hold anything: another W[20] in a block whose schedule has reached word 16. -/
theorem otherWord_validWordsIn (v : Word) :
    (abcSched 16#7 true).validWordsIn ((abcSched 16#7 true).w.setIfInBounds 20 v) :=
  fun _ hj => wordAt_setWord_other _ (by rintro rfl; exact absurd hj (by decide)) v

/-- A memory that differs in a word not valid, and, once the schedule is complete, one that does not differ. -/
theorem witness_DatapathReadsOnlyValidWords_words :
    (abcSched 16#7 true).validWordsIn ((abcSched 16#7 true).w.setIfInBounds 20 1#32) ∧
    (abcCompress 0#7 ivVars true).validWordsIn (abcCompress 0#7 ivVars true).w :=
  ⟨otherWord_validWordsIn 1#32, validWordsIn_self _⟩

theorem witness_InvalidWordsAreNeverObserved :
    (abcSched 16#7 true).Inv ∧ (abcSched 16#7 true).validWordsIn ((abcSched 16#7 true).w.setIfInBounds 20 1#32) ∧
    (abcSched 16#7 true).wordAt 20 ≠ 1#32 ∧ (nextOf (step (abcSched 16#7 true))).isSome = true :=
  ⟨by decide, otherWord_validWordsIn 1#32, by decide, by decide⟩

theorem witness_ReadsChangeAtMostErr :
    ({ we := false, off := 0x013#12, size := .word, wdata := 0#32 } : Access).we = false := rfl

/-- Each of the three cases of a load, and the ends of both windows. -/
theorem witness_WordLoadWritesOneWordInLoad :
    ((abcSched 16#7 true).busy = true) ∧ ((abcSched 16#7 false).busy = false ∧ (abcSched 16#7 false).phase ≠ .load) ∧
    (State.reset.busy = false ∧ State.reset.phase = .load) ∧ 0 < 16 ∧ 15 < 16 ∧ 16 ≤ 16 ∧ 63 < 64 := by decide

/-- Every error code is some transaction's. -/
theorem witness_ErroneousAccessOnlyRecordsTheFirstError :
    expectedError (cmdAccess 0x07000000#32) State.reset = some .illegal ∧
    expectedError (cmdAccess 0x04000000#32) State.reset = some .seq ∧
    expectedError (cmdAccess 0x04000000#32) (abcSched 16#7 true) = some .busy ∧
    expectedError { we := true, off := 0x005#12, size := .word, wdata := 0#32 } State.reset = some .addr ∧
    expectedError { we := true, off := 0x008#12, size := .word, wdata := 0#32 } State.reset = some .ro ∧
    expectedError { we := false, off := 0x1fc#12, size := .word, wdata := 0#32 } State.reset = some .stale := by decide

theorem witness_AccessWithoutErrorRecordsNone :
    expectedError { we := true, off := 0x00c#12, size := .word, wdata := 7#32 } (abcDone true) = none ∧
    (nextOf (access { we := true, off := 0x00c#12, size := .word, wdata := 7#32 } (abcDone true))).isSome = true ∧
    expectedError (cmdAccess 0x02000000#32) abcLoaded = none ∧
    (nextOf (access (cmdAccess 0x02000000#32) abcLoaded)).isSome = true := by decide

/-- A step that clears a recorded error, by each of the two ways. -/
theorem witness_FirstErrorIsKeptUntilCleared :
    (nextOf (step { State.reset with err := { code := .seq, multi := true }, inputs := [wr 0x00c#12 9#32] })).map
      (fun t => t.err.code) = some .none ∧
    (nextOf (step { State.reset with err := { code := .seq, multi := true }, inputs := [.reset] })).map
      (fun t => t.err.code) = some .none := by decide

theorem witness_BusyRefusesAllCommandsButInit : (abcCompress 3#7 ivVars true).busy = true ∧ Instr.run ≠ .init := by decide

theorem witness_NopChangesNothing : State.reset.busy = false ∧ (abcDone true).busy = true ∧
    (0x00800000#32).extractLsb' 24 8 = 0#8 ∧ (0x00800000#32).extractLsb' 0 24 ≠ 0#24 := by decide

/-- START's two cases. -/
theorem witness_StartSeedsTheWorkingVariables :
    (abcLoaded.busy = false ∧ abcLoaded.phase = .load ∧ abcLoaded.wloaded = 0xFFFF#16) ∧
    (State.reset.busy = false ∧ State.reset.wloaded ≠ 0xFFFF#16) ∧
    ((abcDone false).busy = false ∧ (abcDone false).phase ≠ .load) := by decide

/-- The first and the last word, by command and by the core. -/
theorem witness_ScheduleStepComputesOneWord :
    ((abcSched 16#7 false).phase = .sched ∧ 16 ≤ (abcSched 16#7 false).sIdx.toNat ∧
      (abcSched 16#7 false).sIdx.toNat ≤ 63 ∧ (abcSched 16#7 false).tIdx = 0#7 ∧
      (abcSched 16#7 false).wloaded = 0xFFFF#16 ∧ (abcSched 16#7 false).busy = false) ∧
    ((abcSched 63#7 true).phase = .sched ∧ 16 ≤ (abcSched 63#7 true).sIdx.toNat ∧
      (abcSched 63#7 true).sIdx.toNat ≤ 63 ∧ (abcSched 63#7 true).tIdx = 0#7 ∧
      (abcSched 63#7 true).wloaded = 0xFFFF#16 ∧ (abcSched 63#7 true).busy = true) := by decide

/-- The first and the last round, by command and by the core. -/
theorem witness_RoundStepPerformsOneRound :
    ((abcCompress 0#7 ivVars false).phase = .compress ∧ (abcCompress 0#7 ivVars false).sIdx = 64#7 ∧
      (abcCompress 0#7 ivVars false).tIdx.toNat ≤ 63 ∧ (abcCompress 0#7 ivVars false).wloaded = 0xFFFF#16 ∧
      (abcCompress 0#7 ivVars false).busy = false) ∧
    ((abcCompress 63#7 ivVars true).phase = .compress ∧ (abcCompress 63#7 ivVars true).sIdx = 64#7 ∧
      (abcCompress 63#7 ivVars true).tIdx.toNat ≤ 63 ∧ (abcCompress 63#7 ivVars true).wloaded = 0xFFFF#16 ∧
      (abcCompress 63#7 ivVars true).busy = true) := by decide

theorem witness_FinalStepAddsIntoTheHashState :
    ((abcDone false).phase = .roundsDone ∧ (abcDone false).sIdx = 64#7 ∧ (abcDone false).tIdx = 64#7 ∧
      (abcDone false).wloaded = 0xFFFF#16 ∧ (abcDone false).busy = false) ∧
    ((abcDone true).phase = .roundsDone ∧ (abcDone true).sIdx = 64#7 ∧ (abcDone true).tIdx = 64#7 ∧
      (abcDone true).wloaded = 0xFFFF#16 ∧ (abcDone true).busy = true) := by decide

/-- Each of the four cases. -/
theorem witness_CommandsOutOfPhaseOnlyRecordSeq : State.reset.busy = false ∧ State.reset.phase ≠ .sched ∧
    State.reset.phase ≠ .compress ∧ State.reset.phase ≠ .roundsDone ∧ State.reset.phase = .load ∧
    State.reset.wloaded ≠ 0xFFFF#16 := by decide

/-- RUN's four cases. -/
theorem witness_RunHandsTheBlockToTheCore :
    ((abcCompress 20#7 ivVars false).busy = false ∧ (abcCompress 20#7 ivVars false).phase ≠ .load) ∧
    (State.reset.busy = false ∧ State.reset.phase = .load ∧ State.reset.wloaded ≠ 0xFFFF#16) ∧
    (abcLoaded.busy = false ∧ abcLoaded.phase = .load ∧ abcLoaded.wloaded = 0xFFFF#16) ∧
    (abcDone true).busy = true := by decide

/-- Each phase with BUSY = 1; LOAD only in a state that no run reaches. -/
theorem witness_MicroStepMatchesItsCommand :
    ((abcSched 16#7 true).busy = true ∧ (abcSched 16#7 true).phase = .sched) ∧
    ((abcCompress 0#7 ivVars true).busy = true ∧ (abcCompress 0#7 ivVars true).phase = .compress) ∧
    ((abcDone true).busy = true ∧ (abcDone true).phase = .roundsDone) ∧
    ((State.reset.setBusy true).busy = true ∧ (State.reset.setBusy true).phase = .load) ∧
    (nextOf (coreStep (abcSched 16#7 true))).isSome = true := by decide

theorem witness_IdleCoreChangesNothing : State.reset.busy = false ∧ State.reset.coreIsNext := ⟨rfl, .inl rfl⟩

/-- A RUN in progress that meets R35, and the RUN command from LOAD. -/
theorem witness_RunTakesExactlyItsMicroSteps :
    ((abcSched 26#7 true).Inv ∧ (abcSched 26#7 true).busy = true ∧ (abcSched 26#7 true).inputs = [] ∧
      (abcSched 26#7 true).microStepsLeft = 103) ∧
    (abcLoaded.busy = false ∧ abcLoaded.phase = .load ∧ abcLoaded.wloaded = 0xFFFF#16 ∧
      (nextOf (exec .run abcLoaded)).isSome = true) := by decide

theorem witness_BusyEndsAfterBoundedSteps : (abcSched 16#7 true).Inv := by decide

/-- A fair execution that begins with BUSY = 1: the core's last micro-step, and then idle turns. -/
def lastTurns : Nat → State
  | 0     => abcDone true
  | _ + 1 => (finalNext (abcDone true)).setBusy false

theorem witness_WeakFairnessEndsEveryRun :
    (lastTurns 0).Inv ∧ (lastTurns 0).busy = true ∧ isExecution (fun _ => .core) lastTurns ∧
    weaklyFair (fun _ => .core) lastTurns := by
  refine ⟨by decide, by decide, fun n => ?_, fun _ n => ⟨n, Nat.le_refl n, rfl⟩⟩
  cases n <;> rfl

/-- A RUN with three micro-steps left: two polls see BUSY, the third does not. -/
theorem witness_WaitIdleReturnsWhenTheRunIsDone :
    ((abcCompress 62#7 ivVars true).Inv ∧ (abcCompress 62#7 ivVars true).busy = true ∧
      (abcCompress 62#7 ivVars true).microStepsLeft ≤ [1, 1, 1].sum) ∧
    waitIdle [1, 1] (abcCompress 62#7 ivVars true) = none ∧
    (waitIdle [1, 1, 1] (abcCompress 62#7 ivVars true)).map (fun t => (t.busy, t.blkcnt)) = some (false, 1#32) := by decide

theorem witness_StepKeepsSequencingInvariant : State.reset.Inv ∧ (abcSched 63#7 false).Inv ∧
    (abcCompress 63#7 ivVars true).Inv ∧ (abcDone true).Inv := ⟨by decide, by decide, by decide, by decide⟩

/-- A second error after a first, from a state that meets the invariant. -/
theorem witness_MultiOnlyAfterAnError :
    ({ State.reset with err := { code := .seq, multi := false }, inputs := [rd 0x080#12] } : State).ErrInv ∧
    (nextOf (step { State.reset with err := { code := .seq, multi := false }, inputs := [rd 0x080#12] })).map
      (fun t => t.err) = some { code := .seq, multi := true } := by decide

/-- A state with no schedule word computed meets the recurrence, and its next step, SCHED, computes one. -/
theorem witness_StepKeepsScheduleRecurrence :
    ((abcSched 16#7 false).setInputs [cmd .sched]).RecurrenceInv ∧
    (nextOf (step ((abcSched 16#7 false).setInputs [cmd .sched]))).map (fun t => t.filled) = some 17 :=
  ⟨fun i h16 _ hlt => absurd h16 (Nat.not_le.mpr hlt), by decide⟩

/-- A micro-step during a block, and the final step. -/
theorem witness_ScheduleWordsAreStable :
    ((abcSched 16#7 true).Inv ∧ (abcSched 16#7 true).phase ≠ .load ∧ (abcSched 16#7 true).valid 0 = true ∧
      (nextOf (step (abcSched 16#7 true))).map (fun t => t.phase) = some .sched) ∧
    ((abcDone true).Inv ∧ (abcDone true).phase ≠ .load ∧ (abcDone true).phase = .roundsDone ∧
      (nextOf (step (abcDone true))).isSome = true) ∧ (abcDone true).coreIsNext :=
  ⟨by decide, by decide, .inl rfl⟩

/-- Steps that meet the premise of the whole-machine rules, and change HS, a..h, the observation registers and BLKCNT. -/
theorem witness_WholeMachineRules :
    (nextOf (step (abcDone true))).map (fun t => decide (t.hs ≠ (abcDone true).hs ∧ t.blkcnt = 1#32)) = some true ∧
    (nextOf (step (abcCompress 0#7 ivVars true))).map (fun t => decide (t.wv ≠ ivVars ∧ t.obs ≠ .zero)) = some true ∧
    (nextOf (step ((abcSched 17#7 true)))).map (fun t => t.ssig1) = some 0x000f0000#32 := by decide

theorem witness_PhaseTransitionsFollowTheTable : (abcCompress 63#7 ivVars true).Inv ∧
    (nextOf (step (abcCompress 63#7 ivVars true))).map (fun t => (t.phase, t.busy)) = some (.roundsDone, true) := by decide

theorem witness_RunEqualsSingleSteps : abcLoaded.phase = .load ∧ abcLoaded.sIdx = 0#7 ∧ abcLoaded.tIdx = 0#7 ∧
    abcLoaded.busy = false ∧ abcLoaded.wloaded = 0xFFFF#16 := by decide

theorem witness_BlockLeavesCompressOfExpand : State.reset.phase = .load ∧ State.reset.sIdx = 0#7 ∧
    State.reset.tIdx = 0#7 ∧ State.reset.busy = false := by decide

theorem witness_ReadsDoNotDisturbARun : (abcSched 16#7 true).Inv ∧ (abcSched 16#7 true).busy = true ∧
    (∀ e ∈ [rd 0x008#12, .core, rd 0x1fc#12], e.passive = true) := by decide

theorem witness_PaddingReachesAWholeBlock : ([] : List Byte).length < 56 ∧ (List.replicate 55 (0x61#8)).length < 56 ∧
    (padBits (messageBits [0x61#8])).length = 512 := by decide +kernel

/-- Two instances, and an address at the last byte of the second window. -/
theorem witness_InstancesShareNothing :
    ({ pages := [16, 3], busTiming := fun _ => 1 } : Config.Platform).wf = true ∧
    ({ pages := [16, 3], busTiming := fun _ => 1 } : Config.Platform).shaBase 1 = some 12288 ∧ 4095 < 4096 ∧
    route { pages := [16, 3], busTiming := fun _ => 1 } 16383 = some (1, 0xfff#12) ∧
    route { pages := [16, 3], busTiming := fun _ => 1 } 16384 = none ∧ (0 : Nat) ≠ 1 := by decide

/-- The highest bit, which the shift by 3 brings in as 0 and a rotation takes from below. -/
theorem witness_ShiftBringsInZeros : (31 : Nat) < 32 ∧ (shr 0xFFFFFFFF#32 3).getLsbD 31 = false := by decide

theorem witness_SigmasXorThreeBits : (31 : Nat) < 32 ∧ (smallSigma0 0x61626380#32).getLsbD 31 = true := by decide

/-- The blocks of a padded message: one for a message of one byte. -/
theorem witness_BlocksHashToTheReferenceDigest :
    ∃ l, l = blocksOf (padBits (messageBits [0x61#8])) ∧ l.length = 1 := ⟨_, rfl, by decide +kernel⟩

/-- A step for each clause: reset and INIT start a message; a round and a schedule step, by the command and by the core; and
a step that does none of these. -/
theorem witness_ObservationRegistersHoldTheLastStep :
    (State.reset.setInputs [.reset]).nextEvent.startsMessage = true ∧
    ((abcDone true).setInputs [cmd .init]).nextEvent.startsMessage = true ∧
    (abcCompress 0#7 ivVars true).nextEvent.performs 0x04000000#32 .compress (abcCompress 0#7 ivVars true) = true ∧
    (cmd .round).performs 0x04000000#32 .compress (abcCompress 63#7 ivVars false) = true ∧
    (abcSched 16#7 true).nextEvent.performs 0x03000000#32 .sched (abcSched 16#7 true) = true ∧
    (cmd .sched).performs 0x03000000#32 .sched (abcSched 63#7 false) = true ∧
    (cmd .round).performs 0x04000000#32 .compress (abcCompress 0#7 ivVars true) = false ∧
    (cmd .round).startsMessage = false ∧
    (nextOf (step (abcCompress 0#7 ivVars true))).isSome = true ∧ (nextOf (step (abcSched 16#7 true))).isSome = true := by
  decide

theorem witness_BlkcntCountsFinalSteps :
    (abcDone true).nextEvent.performs 0x05000000#32 .roundsDone (abcDone true) = true ∧
    (cmd .final).performs 0x05000000#32 .roundsDone (abcDone false) = true ∧
    (cmd .final).performs 0x05000000#32 .roundsDone (abcDone true) = false ∧
    (nextOf (step (abcDone true))).map (fun t => t.blkcnt) = some 1#32 ∧
    (nextOf (step ((abcDone true).setInputs [cmd .init]))).map (fun t => t.blkcnt) = some 0#32 := by decide

/-- Complete with no block at reset; not so after an error, cleared or not. -/
theorem witness_CompletedMessageHadNoError :
    (follow [] State.reset .fresh).map (fun r => messageCompleted 0 r.1 r.2) = some true ∧
    (follow [cmd .round, clrErr] State.reset .fresh).map
      (fun r => (r.2.errReported, r.1.err.code, r.1.messageComplete 0, messageCompleted 0 r.1 r.2)) =
      some (true, .none, true, false) := by decide

/-- R199: the last final step of a block completes the message, unless the host cleared ERR on the way. -/
theorem test_final_completes_message :
    (follow [cmd .final] (abcDone false) .fresh).map (fun r => messageCompleted 1 r.1 r.2) = some true ∧
    (follow [cmd .round, clrErr, cmd .final] (abcDone false) .fresh).map (fun r => messageCompleted 1 r.1 r.2) =
      some false ∧
    (follow [cmd .final, cmd .init] (abcDone false) .fresh).map (fun r => r.2) = some .fresh := by decide

end Sys2Proof.Tests
end

section
/-! PROOFS. The reachable-state invariants (spec/10_state.md R35): every change that a step can make keeps them, in a state
that meets them a step never stops, and so they hold along every run from reset. -/

namespace Sys2Proof.Proofs

open Sys2Proof.Machine

/-! R35 through the datapath's precondition. -/

/-- R35 is the sequence check of the current phase, with BUSY = 1 only while a block is in progress. -/
theorem inv_iff {s : State} : s.Inv ↔ s.sequenceOk = true ∧ (s.busy = true → s.phase ≠ .load) := by
  cases hp : s.phase <;> simp [State.Inv, State.sequenceOk, hp, allLoaded_iff, and_assoc]

theorem inv_of_inProgress {s : State} (h : s.sequenceOk = true ∧ s.phase ≠ .load) : s.Inv :=
  inv_iff.mpr ⟨h.1, fun _ => h.2⟩

theorem inv_of_idle {s : State} (hb : s.busy = false) (h : s.sequenceOk = true) : s.Inv :=
  inv_iff.mpr ⟨h, by simp [hb]⟩

theorem sequenceOk_of_inv {s : State} (h : s.Inv) : s.sequenceOk = true := (inv_iff.mp h).1

/-- In SCHED all sixteen block words are loaded and s is in 16..63 (R35). -/
theorem sched_of_inv {s : State} (h : s.Inv) (hp : s.phase = .sched) :
    16 ≤ s.sIdx.toNat ∧ s.sIdx.toNat ≤ 63 ∧ s.tIdx = 0#7 ∧ s.wloaded = 0xFFFF#16 :=
  (sequenceOk_of_sched hp).mp (sequenceOk_of_inv h)

/-- In COMPRESS the schedule is complete and t is in 0..63 (R35). -/
theorem compress_of_inv {s : State} (h : s.Inv) (hp : s.phase = .compress) :
    s.sIdx = 64#7 ∧ s.tIdx.toNat ≤ 63 ∧ s.wloaded = 0xFFFF#16 :=
  (sequenceOk_of_compress hp).mp (sequenceOk_of_inv h)

theorem sIdx_le_64 {s : State} (h : s.Inv) : s.sIdx.toNat ≤ 64 := by
  obtain ⟨hl, hs, hc, hd, -⟩ := h
  cases hp : s.phase
  · simp [hl hp]
  · have := hs hp; omega
  · simp [hc hp]
  · simp [hd hp]

theorem tIdx_le_64 {s : State} (h : s.Inv) : s.tIdx.toNat ≤ 64 := by
  obtain ⟨hl, hs, hc, hd, -⟩ := h
  cases hp : s.phase
  · simp [hl hp]
  · simp [hs hp]
  · have := hc hp; omega
  · simp [hd hp]

/-! The index after a step. -/

/-- s and t are incremented from at most 63, so nothing wraps (log entry 11). -/
theorem toNat_add_one {i : BitVec 7} (h : i.toNat ≤ 63) : (i + 1#7).toNat = i.toNat + 1 := by
  rw [BitVec.toNat_add, BitVec.toNat_ofNat]; omega

theorem add_one_eq_64_iff {i : BitVec 7} (h : i.toNat ≤ 63) : i + 1#7 = 64#7 ↔ i.toNat = 63 := by
  rw [← BitVec.toNat_inj, toNat_add_one h, BitVec.toNat_ofNat]; omega

/-! Each datapath step keeps the sequence check. -/

theorem seedStep_inProgress {u : State} (hw : u.wloaded = 0xFFFF#16) :
    (seedStep u).sequenceOk = true ∧ (seedStep u).phase ≠ .load :=
  ⟨(sequenceOk_of_sched rfl).mpr ⟨by simp [seedStep], by simp [seedStep], rfl, hw⟩, by simp [seedStep]⟩

theorem schedNext_phase {u : State} (hp : u.phase = .sched) (hi : u.sIdx.toNat ≤ 63) :
    (schedNext u).phase = if u.sIdx.toNat = 63 then .compress else .sched := by
  simp [schedNext, hp, add_one_eq_64_iff hi]

theorem roundNext_phase {u : State} (hp : u.phase = .compress) (hi : u.tIdx.toNat ≤ 63) :
    (roundNext u).phase = if u.tIdx.toNat = 63 then .roundsDone else .compress := by
  simp [roundNext, hp, add_one_eq_64_iff hi]

theorem schedNext_inProgress {u : State} (hp : u.phase = .sched) (ho : u.sequenceOk = true) :
    (schedNext u).sequenceOk = true ∧ (schedNext u).phase ≠ .load := by
  obtain ⟨h16, h63, ht, hw⟩ := (sequenceOk_of_sched hp).mp ho
  have hphase := schedNext_phase hp h63
  by_cases hi : u.sIdx.toNat = 63
  · rw [if_pos hi] at hphase
    exact ⟨(sequenceOk_of_compress hphase).mpr
      ⟨(add_one_eq_64_iff h63).mpr hi, by simp [schedNext, ht], hw⟩, by simp [hphase]⟩
  · rw [if_neg hi] at hphase
    have hs : (schedNext u).sIdx.toNat = u.sIdx.toNat + 1 := toNat_add_one h63
    exact ⟨(sequenceOk_of_sched hphase).mpr ⟨by omega, by omega, ht, hw⟩, by simp [hphase]⟩

theorem roundNext_inProgress {u : State} (hp : u.phase = .compress) (ho : u.sequenceOk = true) :
    (roundNext u).sequenceOk = true ∧ (roundNext u).phase ≠ .load := by
  obtain ⟨hs, h63, hw⟩ := (sequenceOk_of_compress hp).mp ho
  have hphase := roundNext_phase hp h63
  by_cases hi : u.tIdx.toNat = 63
  · rw [if_pos hi] at hphase
    exact ⟨(sequenceOk_of_roundsDone hphase).mpr ⟨hs, (add_one_eq_64_iff h63).mpr hi, hw⟩, by simp [hphase]⟩
  · rw [if_neg hi] at hphase
    have ht : (roundNext u).tIdx.toNat = u.tIdx.toNat + 1 := toNat_add_one h63
    exact ⟨(sequenceOk_of_compress hphase).mpr ⟨hs, by omega, hw⟩, by simp [hphase]⟩

/-- Every change that a step can make keeps R35. -/
theorem change_keeps_inv {c : Cause} {u t : State} (h : Change u c t) (hi : u.Inv) : t.Inv := by
  cases h with
  | same => exact hi
  | recorded => exact hi
  | errCleared => exact hi
  | loaded j v hj hb hp =>
    obtain ⟨hs, ht⟩ := hi.1 hp
    exact inv_of_idle hb (by simp [State.sequenceOk, hp, hs, ht])
  | inited => exact inv_of_idle rfl rfl
  | wasReset => exact inv_of_idle rfl rfl
  | started hb hp hw => exact inv_of_inProgress (seedStep_inProgress hw)
  | ranFromLoad hb hp hw => exact inv_of_inProgress (s := (seedStep u).setBusy true) (seedStep_inProgress hw)
  | ranOn hb hp => exact inv_of_inProgress (s := u.setBusy true) ⟨(sequenceOk_of_inv hi : u.sequenceOk = true), hp⟩
  | scheduled hb hp ho => exact inv_of_inProgress (schedNext_inProgress hp ho)
  | rounded hb hp ho => exact inv_of_inProgress (roundNext_inProgress hp ho)
  | finaled hb hp ho => exact inv_of_idle hb rfl
  | coreScheduled hb hp ho => exact inv_of_inProgress (schedNext_inProgress hp ho)
  | coreRounded hb hp ho => exact inv_of_inProgress (roundNext_inProgress hp ho)
  | coreFinaled hb hp ho => exact inv_of_idle rfl rfl

/-- Every step keeps R35. -/
theorem step_keeps_inv {s s' : State} (h : step s = .next s') (hi : s.Inv) : s'.Inv := by
  obtain ⟨rest, r, c, -, hc⟩ := step_change h
  exact change_keeps_inv hc hi

/-! Where the sequence check holds, nothing stops. -/

theorem unlessBusy_next {rule : State → Result} {u : State} (h : ∃ t, rule u = .next t) :
    ∃ t, unlessBusy rule u = .next t := by
  obtain ⟨-, e⟩ | ⟨-, e⟩ := unlessBusy_cases rule u
  · exact ⟨_, e⟩
  · rwa [e]

theorem whenSequenceOk_next {u : State} (ho : u.sequenceOk = true) (rule : State → State) :
    whenSequenceOk rule u = .next (rule u) := by
  simp [whenSequenceOk, ho]

/-- A check goes on if both of its outcomes do. -/
theorem ite_next {p : Prop} [Decidable p] {r r' : Result} (h : ∃ t, r = .next t) (h' : ∃ t, r' = .next t) :
    ∃ t, (if p then r else r') = .next t := by
  split
  · exact h
  · exact h'

theorem exec_next (i : Instr) {u : State} (ho : u.sequenceOk = true) : ∃ t, exec i u = .next t := by
  cases i with
  | init => exact ⟨_, rfl⟩
  | nop => exact unlessBusy_next ⟨_, rfl⟩
  | start => exact unlessBusy_next (ite_next ⟨_, rfl⟩ ⟨_, rfl⟩)
  | sched => exact unlessBusy_next (ite_next ⟨_, whenSequenceOk_next ho _⟩ ⟨_, rfl⟩)
  | round => exact unlessBusy_next (ite_next ⟨_, whenSequenceOk_next ho _⟩ ⟨_, rfl⟩)
  | final => exact unlessBusy_next (ite_next ⟨_, whenSequenceOk_next ho _⟩ ⟨_, rfl⟩)
  | run => exact unlessBusy_next (ite_next (ite_next ⟨_, rfl⟩ ⟨_, rfl⟩) ⟨_, rfl⟩)

/-- With BUSY = 1 a state that meets R35 has a block in progress, and its phase's micro-step runs (R194). -/
theorem coreStep_next {u : State} (hi : u.Inv) (hb : u.busy = true) : ∃ t, coreStep u = .next t := by
  have ho := sequenceOk_of_inv hi
  cases hp : u.phase with
  | load => exact absurd hp ((inv_iff.mp hi).2 hb)
  | sched => exact ⟨_, by simp only [coreStep, hp, schedStep, whenSequenceOk_next ho]; rfl⟩
  | compress => exact ⟨_, by simp only [coreStep, hp, roundStep, whenSequenceOk_next ho]; rfl⟩
  | roundsDone => exact ⟨_, by simp only [coreStep, hp, finalStep, whenSequenceOk_next ho, thenDo]; rfl⟩

theorem coreTurn_next {u : State} (hi : u.Inv) : ∃ t, coreTurn u = .next t := by
  unfold coreTurn
  split
  · exact coreStep_next hi ‹_›
  · exact ⟨_, rfl⟩

theorem cmdWrite_next (v : Word) {u : State} (ho : u.sequenceOk = true) : ∃ t, cmdWrite v u = .next t := by
  cases hd : decode v with
  | error e => exact ⟨_, cmdWrite_error hd u⟩
  | ok i => rw [cmdWrite_ok hd]; exact exec_next i ho

theorem writeTarget_next (g : Target) (v : Word) {u : State} (ho : u.sequenceOk = true) :
    ∃ t, writeTarget g v u = .next t := by
  refine ite_next ⟨_, rfl⟩ ?_
  cases g with
  | cmd => exact cmdWrite_next v ho
  | _ => exact ⟨_, rfl⟩

theorem access_next (x : Access) {u : State} (ho : u.sequenceOk = true) : ∃ t, access x u = .next t := by
  unfold access
  split
  · exact ⟨_, rfl⟩
  · exact ite_next (writeTarget_next _ _ ho) ⟨_, rfl⟩

/-- In a state that meets R35 a step never stops. -/
theorem step_next {s : State} (hi : s.Inv) : ∃ t, step s = .next t := by
  cases hl : s.inputs with
  | nil => rw [step_alone hl]; exact coreTurn_next hi
  | cons e rest =>
    cases e with
    | core => rw [step_core hl]; exact coreTurn_next hi
    | reset => exact ⟨_, step_reset hl⟩
    | access x => rw [step_access hl]; exact access_next x (sequenceOk_of_inv hi)

/-- Settles O38: no state that meets R35 stops, and every change that a step can make keeps R35. -/
theorem stepKeepsSequencingInvariant : Obligations.StepKeepsSequencingInvariant := by
  intro s hi
  obtain ⟨s', h⟩ := step_next hi
  exact ⟨s', h, step_keeps_inv h hi⟩

/-- Settles O39: reset is LOAD with both indices 0, whatever events are to come. -/
theorem resetMeetsSequencingInvariant : Obligations.ResetMeetsSequencingInvariant :=
  ⟨inv_of_idle rfl rfl, fun _ => inv_of_idle rfl rfl⟩

/-! Runs. -/

/-- What every step keeps, without stopping, holds after any number of steps. -/
theorem runSteps_invariant {P : State → Prop} (hstep : ∀ s, P s → ∃ s', step s = .next s' ∧ P s') (n : Nat)
    {s : State} (h : P s) : ∃ t, runSteps n s = .next t ∧ P t := by
  induction n generalizing s with
  | zero => exact ⟨s, rfl, h⟩
  | succ n ih =>
    obtain ⟨s', hs, h'⟩ := hstep s h
    simpa only [runSteps, hs] using ih h'

/-! Which words are valid in a block in progress (R24). -/

theorem valid_of_lt_sIdx {s : State} (hp : s.phase ≠ .load) (hw : s.wloaded = 0xFFFF#16) {j : Nat} (hj : j < s.sIdx.toNat)
    (hs : s.sIdx.toNat ≤ 64) : s.valid j = true := by
  unfold State.valid
  split
  · rw [hw, show 0xFFFF#16 = BitVec.allOnes 16 from rfl, BitVec.getLsbD_allOnes]; simpa
  · simp [hp, hj]; omega

/-- The operands of the schedule step are valid words (R24, R154). -/
theorem schedOperands_valid {s : State} (hi : s.Inv) (hp : s.phase = .sched) {d : Nat} (hd : d ∈ [2, 7, 15, 16]) :
    s.valid (s.sIdx.toNat - d) = true := by
  obtain ⟨h16, h63, -, hw⟩ := sched_of_inv hi hp
  have : 0 < d := by simp at hd; omega
  exact valid_of_lt_sIdx (by simp [hp]) hw (by omega) (by omega)

/-- The word of the round step is valid (R24, R173). -/
theorem roundWord_valid {s : State} (hi : s.Inv) (hp : s.phase = .compress) : s.valid s.tIdx.toNat = true := by
  obtain ⟨hs, ht, hw⟩ := compress_of_inv hi hp
  exact valid_of_lt_sIdx (by simp [hp]) hw (by simp [hs]; omega) (by simp [hs])

/-- Settles O40, by the invariant of O38 along the run. -/
theorem everyReachableStateIsConsistent : Obligations.EveryReachableStateIsConsistent := by
  intro l n
  obtain ⟨t, hrun, hi⟩ := runSteps_invariant stepKeepsSequencingInvariant n (resetMeetsSequencingInvariant.2 l)
  exact ⟨t, hrun, hi, sIdx_le_64 hi, tIdx_le_64 hi, fun hp _ hd => schedOperands_valid hi hp hd, roundWord_valid hi⟩

end Sys2Proof.Proofs
end

section
/-! PROOFS. Words that are not valid (spec/10_state.md R24, R39, 93 I14): `SameButInvalid` relates what a state does with what
it does when its invalid words hold something else, one lemma per operation, up to the step. -/

namespace Sys2Proof.Proofs

open Sys2Proof.Machine

/-- Both outcomes go on, to states that differ at most in words that are not valid. -/
def SameButInvalid (r r' : Result) : Prop :=
  ∃ t w, r = .next t ∧ r' = .next (t.setSchedule w) ∧ t.validWordsIn w

/-! What keeps a memory that holds the valid words. -/

/-- A change that makes no word valid and writes none. -/
theorem validWordsIn_of_valid_imp {s t : State} {w : Vector Word 64} (h : s.validWordsIn w) (hw : t.w = s.w)
    (hv : ∀ j, t.valid j = true → s.valid j = true) : t.validWordsIn w := by
  intro j hj
  rw [wordAt_eq_of_w (show (t.setSchedule w).w = (s.setSchedule w).w from rfl), wordAt_eq_of_w hw]
  exact h j (hv j hj)

/-- A change that writes word i in both memories and makes at most that word valid. -/
theorem validWordsIn_setWord {s t : State} {w : Vector Word 64} {i : Nat} {v : Word} (h : s.validWordsIn w)
    (hw : t.w = (s.setWord i v).w) (hv : ∀ j, t.valid j = true → j = i ∨ s.valid j = true) :
    t.validWordsIn (w.setIfInBounds i v) := by
  intro j hj
  have hl : (t.setSchedule (w.setIfInBounds i v)).wordAt j = ((s.setSchedule w).setWord i v).wordAt j :=
    wordAt_eq_of_w rfl j
  rw [hl, wordAt_eq_of_w hw]
  by_cases hij : i = j
  · subst hij
    simp [State.wordAt, State.setWord, Vector.getElem?_setIfInBounds]
  · rw [wordAt_setWord_other _ hij, wordAt_setWord_other _ hij]
    exact h j ((hv j hj).resolve_left (Ne.symm hij))

/-! Which words are valid (R24), before and after each datapath step. -/

theorem valid_iff {s : State} {j : Nat} : s.valid j = true ↔
    (j < 16 ∧ s.wloaded.getLsbD j = true) ∨ (16 ≤ j ∧ j ≤ 63 ∧ s.phase ≠ .load ∧ j < s.sIdx.toNat) := by
  by_cases h : j < 16
  · simp [State.valid, h]
  · simp [State.valid, h, and_assoc, Nat.le_of_not_lt h]

theorem seedStep_valid {u : State} {j : Nat} (hj : (seedStep u).valid j = true) : u.valid j = true := by
  obtain h | ⟨h16, -, -, hs⟩ := valid_iff.mp hj
  · exact valid_iff.mpr (.inl h)
  · exact absurd hs (Nat.not_lt.mpr h16)

/-- A schedule step makes at most the word it computes valid. -/
theorem schedNext_valid {u : State} (hp : u.phase = .sched) (hi : u.sIdx.toNat ≤ 63) {j : Nat}
    (hj : (schedNext u).valid j = true) : j = u.sIdx.toNat ∨ u.valid j = true := by
  obtain h | ⟨h16, h63, -, hs⟩ := valid_iff.mp hj
  · exact .inr (valid_iff.mpr (.inl h))
  · rw [show (schedNext u).sIdx.toNat = u.sIdx.toNat + 1 from toNat_add_one hi] at hs
    refine (Nat.lt_succ_iff_lt_or_eq.mp hs).symm.imp_right fun hlt => valid_iff.mpr (.inr ⟨h16, h63, by simp [hp], hlt⟩)

theorem roundNext_valid {u : State} (hp : u.phase = .compress) {j : Nat} (hj : (roundNext u).valid j = true) :
    u.valid j = true := by
  obtain h | ⟨h16, h63, -, hs⟩ := valid_iff.mp hj
  · exact valid_iff.mpr (.inl h)
  · exact valid_iff.mpr (.inr ⟨h16, h63, by simp [hp], hs⟩)

/-- After a final step no word is valid (R175). -/
theorem finalNext_valid (u : State) (j : Nat) : (finalNext u).valid j ≠ true := by
  rw [Ne, valid_iff]
  simp [finalNext]

/-- A load makes at most its own word valid (R150). -/
theorem loaded_valid {u : State} {i j : Nat} {v : Word}
    (hj : ((u.setWord i v).setLoaded (markLoaded u.wloaded i)).valid j = true) : j = i ∨ u.valid j = true := by
  obtain ⟨h16, h⟩ | h := valid_iff.mp hj
  · simp only [State.setLoaded_wloaded, getLsbD_markLoaded _ h16, Bool.or_eq_true, decide_eq_true_eq] at h
    exact h.symm.imp_right fun hl => valid_iff.mpr (.inl ⟨h16, hl⟩)
  · exact .inr (valid_iff.mpr (.inr h))

/-- The operands of the schedule step are valid words, so the invalid ones have no part in them. -/
theorem schedOperands_setSchedule {s : State} {w : Vector Word 64} (hi : s.Inv) (hp : s.phase = .sched)
    (h : s.validWordsIn w) : (s.setSchedule w).schedOperands = s.schedOperands := by
  have hword : ∀ d ∈ [2, 7, 15, 16],
      (s.setSchedule w).wordAt (s.sIdx.toNat - d) = s.wordAt (s.sIdx.toNat - d) :=
    fun d hd => h _ (schedOperands_valid hi hp hd)
  simp [State.schedOperands, hword]

theorem roundWord_setSchedule {s : State} {w : Vector Word 64} (hi : s.Inv) (hp : s.phase = .compress)
    (h : s.validWordsIn w) : (s.setSchedule w).roundWord = s.roundWord :=
  h _ (roundWord_valid hi hp)

theorem schedStep_sameButInvalid {s : State} {w : Vector Word 64} (hi : s.Inv) (hp : s.phase = .sched)
    (h : s.validWordsIn w) : SameButInvalid (schedStep s) (schedStep (s.setSchedule w)) := by
  have ho := sequenceOk_of_inv hi
  refine ⟨schedNext s, w.setIfInBounds s.sIdx.toNat (schedWordOf s.schedOperands), whenSequenceOk_next ho _, ?_,
    validWordsIn_setWord h rfl fun j => schedNext_valid hp (sched_of_inv hi hp).2.1⟩
  rw [schedStep, whenSequenceOk_next (u := s.setSchedule w) ho, schedNext, schedOperands_setSchedule hi hp h]
  rfl

/-- A round step writes no schedule word, so the memories stay as they are. -/
theorem roundStep_setSchedule {s : State} {w : Vector Word 64} (hi : s.Inv) (hp : s.phase = .compress)
    (h : s.validWordsIn w) : ∃ t, roundStep s = .next t ∧ roundStep (s.setSchedule w) = .next (t.setSchedule w) ∧
      t.validWordsIn w := by
  have ho := sequenceOk_of_inv hi
  refine ⟨roundNext s, whenSequenceOk_next ho _, ?_, validWordsIn_of_valid_imp h rfl fun j => roundNext_valid hp⟩
  rw [roundStep, whenSequenceOk_next (u := s.setSchedule w) ho, roundNext, roundWord_setSchedule hi hp h]
  rfl

/-- Settles O16, by the validity of the operands of each step. -/
theorem datapathReadsOnlyValidWords : Obligations.DatapathReadsOnlyValidWords := by
  intro s hi
  refine ⟨fun hp d hd => schedOperands_valid hi hp hd, roundWord_valid hi, fun w h => ⟨fun hp => ?_, fun hp => ?_⟩⟩
  · exact ⟨schedOperands_setSchedule hi hp h, schedStep_sameButInvalid hi hp h⟩
  · exact ⟨roundWord_setSchedule hi hp h, roundStep_setSchedule hi hp h⟩

/-! The three outcomes of a word load (R150). -/

theorem wordLoad_of_busy {j : Nat} {v : Word} {u : State} (hb : u.busy = true) : wordLoad j v u = u.raise .busy :=
  if_pos hb

theorem wordLoad_of_ne_load {j : Nat} {v : Word} {u : State} (hb : ¬ u.busy = true) (hp : u.phase ≠ .load) :
    wordLoad j v u = u.raise .seq := by
  rw [wordLoad, if_neg hb, if_pos hp]

theorem wordLoad_of_load {j : Nat} {v : Word} {u : State} (hb : ¬ u.busy = true) (hp : u.phase = .load) :
    wordLoad j v u = (u.setWord j v).setLoaded (markLoaded u.wloaded j) := by
  rw [wordLoad, if_neg hb, if_neg (not_not_intro hp)]

/-! Commands, the core and the bus. The shared premises: R35, and a memory that holds the valid words. -/

section
variable {s : State} {w : Vector Word 64}

/-- An outcome that neither writes a schedule word nor makes one valid. -/
theorem sameButInvalid_next {t : State} (h : s.validWordsIn w) (hw : t.w = s.w)
    (hv : ∀ j, t.valid j = true → s.valid j = true) : SameButInvalid (.next t) (.next (t.setSchedule w)) :=
  ⟨t, w, rfl, rfl, validWordsIn_of_valid_imp h hw hv⟩

/-- Changes to BUSY, ERR, the bus port or the events to come leave the valid words alone. -/
theorem sameButInvalid_same (h : s.validWordsIn w) : SameButInvalid (.next s) (.next (s.setSchedule w)) :=
  sameButInvalid_next h rfl fun _ hj => hj

theorem sameButInvalid_raise (c : ErrCode) (h : s.validWordsIn w) :
    SameButInvalid (.next (s.raise c)) (.next ((s.setSchedule w).raise c)) :=
  sameButInvalid_same (s := s.raise c) h

theorem sameButInvalid_seed (h : s.validWordsIn w) :
    SameButInvalid (.next (seedStep s)) (.next (seedStep (s.setSchedule w))) :=
  sameButInvalid_next h rfl fun _ => seedStep_valid

theorem ite_sameButInvalid {p : Prop} [Decidable p] {a b a' b' : Result} (h : p → SameButInvalid a a')
    (h' : ¬ p → SameButInvalid b b') : SameButInvalid (if p then a else b) (if p then a' else b') := by
  split
  · exact h ‹_›
  · exact h' ‹_›

theorem unlessBusy_sameButInvalid {rule : State → Result} (h : s.validWordsIn w)
    (hr : SameButInvalid (rule s) (rule (s.setSchedule w))) :
    SameButInvalid (unlessBusy rule s) (unlessBusy rule (s.setSchedule w)) :=
  ite_sameButInvalid (fun _ => sameButInvalid_raise .busy h) fun _ => hr

theorem finalStep_sameButInvalid (hi : s.Inv) : SameButInvalid (finalStep s) (finalStep (s.setSchedule w)) :=
  have ho := sequenceOk_of_inv hi
  ⟨finalNext s, w, whenSequenceOk_next ho _, whenSequenceOk_next (u := s.setSchedule w) ho _,
    fun j hj => absurd hj (finalNext_valid s j)⟩

theorem roundStep_sameButInvalid (hi : s.Inv) (hp : s.phase = .compress) (h : s.validWordsIn w) :
    SameButInvalid (roundStep s) (roundStep (s.setSchedule w)) :=
  have ⟨t, ht⟩ := roundStep_setSchedule hi hp h
  ⟨t, w, ht⟩

/-- The rule of SCHED, ROUND and FINAL: a datapath step in one phase, E_SEQ elsewhere. -/
theorem inPhase_sameButInvalid {p : Phase} {dstep : State → Result} (h : s.validWordsIn w)
    (hd : s.phase = p → SameButInvalid (dstep s) (dstep (s.setSchedule w))) :
    SameButInvalid (unlessBusy (fun u => if u.phase = p then dstep u else .next (u.raise .seq)) s)
      (unlessBusy (fun u => if u.phase = p then dstep u else .next (u.raise .seq)) (s.setSchedule w)) :=
  unlessBusy_sameButInvalid h (ite_sameButInvalid hd fun _ => sameButInvalid_raise .seq h)

theorem exec_sameButInvalid (i : Instr) (hi : s.Inv) (h : s.validWordsIn w) :
    SameButInvalid (exec i s) (exec i (s.setSchedule w)) := by
  cases i with
  | init => exact ⟨initState s, (initState s).w, rfl, rfl, validWordsIn_self _⟩
  | nop => exact unlessBusy_sameButInvalid h (sameButInvalid_same h)
  | start =>
    exact unlessBusy_sameButInvalid h
      (ite_sameButInvalid (fun _ => sameButInvalid_raise .seq h) fun _ => sameButInvalid_seed h)
  | sched => exact inPhase_sameButInvalid h fun hp => schedStep_sameButInvalid hi hp h
  | round => exact inPhase_sameButInvalid h fun hp => roundStep_sameButInvalid hi hp h
  | final => exact inPhase_sameButInvalid h fun _ => finalStep_sameButInvalid hi
  | run =>
    refine unlessBusy_sameButInvalid h (ite_sameButInvalid (fun _ => ite_sameButInvalid (fun _ => ?_) fun _ => ?_) fun _ => ?_)
    · exact sameButInvalid_next (t := (seedStep s).setBusy true) h rfl fun _ => seedStep_valid
    · exact sameButInvalid_raise .seq h
    · exact sameButInvalid_same (s := s.setBusy true) h

theorem coreStep_sameButInvalid (hi : s.Inv) (hb : s.busy = true) (h : s.validWordsIn w) :
    SameButInvalid (coreStep s) (coreStep (s.setSchedule w)) := by
  cases hp : s.phase with
  | load => exact absurd hp ((inv_iff.mp hi).2 hb)
  | sched => simpa [coreStep, hp] using schedStep_sameButInvalid hi hp h
  | compress => simpa [coreStep, hp] using roundStep_sameButInvalid hi hp h
  | roundsDone =>
    obtain ⟨t, w', e, e', ht⟩ := finalStep_sameButInvalid (w := w) hi
    exact ⟨t.setBusy false, w', by simp [coreStep, hp, e, thenDo], by simp [coreStep, hp, e', thenDo]; rfl, ht⟩

theorem coreTurn_sameButInvalid (hi : s.Inv) (h : s.validWordsIn w) :
    SameButInvalid (coreTurn s) (coreTurn (s.setSchedule w)) :=
  ite_sameButInvalid (fun hb => coreStep_sameButInvalid hi hb h) fun _ => sameButInvalid_same h

theorem wordLoad_sameButInvalid (j : Nat) (v : Word) (h : s.validWordsIn w) :
    SameButInvalid (.next (wordLoad j v s)) (.next (wordLoad j v (s.setSchedule w))) := by
  by_cases hb : s.busy = true
  · rw [wordLoad_of_busy hb, wordLoad_of_busy (u := s.setSchedule w) hb]
    exact sameButInvalid_raise .busy h
  by_cases hp : s.phase = .load
  · rw [wordLoad_of_load hb hp, wordLoad_of_load (u := s.setSchedule w) hb hp]
    exact ⟨_, w.setIfInBounds j v, rfl, rfl, validWordsIn_setWord h rfl fun _ => loaded_valid⟩
  · rw [wordLoad_of_ne_load hb hp, wordLoad_of_ne_load (u := s.setSchedule w) hb hp]
    exact sameButInvalid_raise .seq h

theorem writeTarget_sameButInvalid (g : Target) (v : Word) (hi : s.Inv) (h : s.validWordsIn w) :
    SameButInvalid (writeTarget g v s) (writeTarget g v (s.setSchedule w)) := by
  refine ite_sameButInvalid (fun _ => sameButInvalid_raise .ro h) fun _ => ?_
  cases g with
  | cmd =>
    cases hd : decode v with
    | error e => simpa only [cmdWrite_error hd] using sameButInvalid_raise .illegal h
    | ok i => simpa only [cmdWrite_ok hd] using exec_sameButInvalid i hi h
  | err => exact sameButInvalid_same (s := s.setErr .clear) h
  | schedWord j => exact wordLoad_sameButInvalid j v h
  | _ => exact sameButInvalid_same h

/-- A read shows a word only where it is valid, so its answer is the same too (R152). -/
theorem readTarget_setSchedule (g : Target) (h : s.validWordsIn w) :
    readTarget g (s.setSchedule w) = ((readTarget g s).1.setSchedule w, (readTarget g s).2) := by
  cases g with
  | schedWord j =>
    by_cases hv : s.valid j = true
    · simp [readTarget, wordRead, hv, h j hv]
    · simp [readTarget, wordRead, hv]; rfl
  | _ => rfl

theorem read_sameButInvalid (g : Target) (h : s.validWordsIn w) :
    SameButInvalid (.next (answerRead (readTarget g s))) (.next (answerRead (readTarget g (s.setSchedule w)))) := by
  rw [readTarget_setSchedule g h]
  refine sameButInvalid_same (s := answerRead (readTarget g s)) (w := w) ?_
  obtain e | e := readTarget_state g s
  · rw [answerRead, e]; exact h
  · rw [answerRead, e]; exact h

theorem access_sameButInvalid (x : Access) (hi : s.Inv) (h : s.validWordsIn w) :
    SameButInvalid (access x s) (access x (s.setSchedule w)) := by
  unfold access
  split
  · exact sameButInvalid_same (s := (s.raise .addr).setReply _) h
  · exact ite_sameButInvalid (fun _ => writeTarget_sameButInvalid (s := s.setReply .ack) _ _ hi h)
      fun _ => read_sameButInvalid _ h

/-- No step of a state that meets R35 depends on what the invalid words hold. -/
theorem step_sameButInvalid (hi : s.Inv) (h : s.validWordsIn w) : SameButInvalid (step s) (step (s.setSchedule w)) := by
  cases hl : s.inputs with
  | nil =>
    rw [step_alone hl, step_alone (s := s.setSchedule w) hl]
    exact coreTurn_sameButInvalid (s := s.setReply .quiet) hi h
  | cons e rest =>
    cases e with
    | core =>
      rw [step_core hl, step_core (s := s.setSchedule w) hl]
      exact coreTurn_sameButInvalid (s := (s.setInputs rest).setReply .quiet) hi h
    | reset =>
      rw [step_reset hl, step_reset (s := s.setSchedule w) hl]
      exact ⟨_, _, rfl, rfl, validWordsIn_self _⟩
    | access x =>
      rw [step_access hl, step_access (s := s.setSchedule w) hl]
      exact access_sameButInvalid (s := s.setInputs rest) x hi h

end

/-- Settles O55, by the lemma for the step. -/
theorem invalidWordsAreNeverObserved : Obligations.InvalidWordsAreNeverObserved := by
  intro s s' w hi h hs
  obtain ⟨t, w', ht, hw', hv⟩ := step_sameButInvalid hi h
  obtain rfl := Host.Outcome.next.inj (ht.symm.trans hs)
  exact ⟨w', hw', hv⟩

end Sys2Proof.Proofs
end

section
/-! PROOFS. Who writes the registers of the datapath and ERR (spec/10_state.md R21, R22, R29 to R32): `step_datapathChange`
says once how a step can leave HS, a..h, the observation registers and BLKCNT, and the rules follow by cases on it. -/

namespace Sys2Proof.Proofs

open Sys2Proof.Machine

/-! The word behind a command, and the event behind a cause. -/

/-- The fields of a word make up the word again (R100). -/
theorem wordOf_fieldsOf (v : Word) : wordOf (fieldsOf v) = v :=
  BitVec.extractLsb'_append_extractLsb' (w := 8) (len := 24)

theorem opcodeOf_of_commandOf {opc : BitVec 8} {i : Instr} (h : commandOf opc = some i) : opc = opcodeOf i := by
  apply BitVec.eq_of_toNat_eq
  unfold commandOf at h
  split at h <;> cases h <;> assumption

/-- A command is decoded from its own word only (R102, R106). -/
theorem eq_encode_of_decode {v : Word} {i : Instr} (h : decode v = .ok i) : v = encode i := by
  unfold decode at h
  split at h
  · rename_i hr
    split at h
    · rename_i j hj
      obtain rfl : j = i := by simpa using h
      rw [encode, ← opcodeOf_of_commandOf hj, ← hr, wordOf_fieldsOf]
    · cases h
  · cases h

theorem issues_of_hasCause {s : State} {i : Instr} (h : s.hasCause (.command i)) : s.issues (encode i) := by
  obtain ⟨v, hd, hv⟩ := h
  rwa [← eq_encode_of_decode hd]

theorem performs_of_coreIsNext {s : State} {v : Word} {p : Phase} (hc : s.coreIsNext) (hb : s.busy = true)
    (hp : s.phase = p) : s.nextEvent.performs v p s = true :=
  performs_iff.mpr ⟨hp, .inl ⟨hb, nextEvent_of_coreIsNext hc⟩⟩

theorem performs_of_issues {s : State} {v : Word} {p : Phase} (hc : s.issues v) (hb : s.busy = false)
    (hp : s.phase = p) : s.nextEvent.performs v p s = true :=
  performs_iff.mpr ⟨hp, .inr ⟨hb, nextEvent_of_issues hc⟩⟩

theorem coreIsNext_of_nextEvent {s : State} (h : s.nextEvent = .core) : s.coreIsNext := by
  cases hi : s.inputs with
  | nil => exact .inl hi
  | cons e rest => exact .inr ⟨rest, by rw [hi, ← nextEvent_of_inputs hi, h]⟩

/-- A datapath step is made by its own command or, with BUSY = 1, by the core (R194). -/
theorem agent_of_performs {s : State} {v : Word} {p : Phase} (h : s.nextEvent.performs v p s = true) :
    s.phase = p ∧ (s.issues v ∨ (s.busy = true ∧ s.coreIsNext)) := by
  obtain ⟨hp, ⟨hb, he⟩ | ⟨-, he⟩⟩ := performs_iff.mp h
  · exact ⟨hp, .inr ⟨hb, coreIsNext_of_nextEvent he⟩⟩
  · exact ⟨hp, .inl (inputs_of_nextEvent he (by simp))⟩

/-- A message is started by the INIT command or by the reset pin (R192, R250). -/
theorem agent_of_startsMessage {s : State} (h : s.nextEvent.startsMessage = true) :
    s.issues 0x01000000#32 ∨ ∃ rest, s.inputs = .reset :: rest := by
  cases he : s.nextEvent with
  | core => simp [he] at h
  | reset => exact .inr (inputs_of_nextEvent he (by simp))
  | access x =>
    obtain rfl : x = cmdAccess 0x01000000#32 := by simpa [he, Event.startsMessage] using h
    exact .inl (inputs_of_nextEvent he (by simp))

/-! The registers of the datapath. -/

/-- The registers of the datapath alone: HS, a..h, the observation registers and BLKCNT, every other element as at reset.
Two states with equal `datapath` agree in these registers. -/
def datapath (s : State) : State :=
  { State.reset with hs := s.hs, wv := s.wv, obs := s.obs, ssig0 := s.ssig0, ssig1 := s.ssig1, blkcnt := s.blkcnt }

theorem hs_of_datapath {s t : State} (e : datapath s = datapath t) : s.hs = t.hs := (congrArg State.hs e :)

theorem wv_of_datapath {s t : State} (e : datapath s = datapath t) : s.wv = t.wv := (congrArg State.wv e :)

theorem obs_of_datapath {s t : State} (e : datapath s = datapath t) : s.obs = t.obs := (congrArg State.obs e :)

theorem ssigs_of_datapath {s t : State} (e : datapath s = datapath t) : s.ssig0 = t.ssig0 ∧ s.ssig1 = t.ssig1 :=
  ⟨(congrArg State.ssig0 e :), (congrArg State.ssig1 e :)⟩

theorem blkcnt_of_datapath {s t : State} (e : datapath s = datapath t) : s.blkcnt = t.blkcnt := (congrArg State.blkcnt e :)

/-- INIT and reset leave the datapath as `Init()` does (R192, R250). -/
theorem datapath_of_startsMessage {s s' : State} (h : step s = .next s') (hm : s.nextEvent.startsMessage = true) :
    datapath s' = datapath (initState s) := by
  obtain ⟨rest, r, e | e⟩ := step_of_startsMessage hm
  · obtain rfl := Host.Outcome.next.inj (e.symm.trans h)
    rfl
  · obtain rfl := Host.Outcome.next.inj (e.symm.trans h)
    rfl

theorem datapath_of_sched {s s' : State} (h : step s = .next s')
    (hp : s.nextEvent.performs 0x03000000#32 .sched s = true) : datapath s' = datapath (schedNext s) := by
  obtain ⟨rest, r, e⟩ := step_of_performs_sched hp
  obtain ⟨-, rfl⟩ := schedStep_eq_next.mp (e.symm.trans h)
  rfl

theorem datapath_of_round {s s' : State} (h : step s = .next s')
    (hp : s.nextEvent.performs 0x04000000#32 .compress s = true) : datapath s' = datapath (roundNext s) := by
  obtain ⟨rest, r, e⟩ := step_of_performs_round hp
  obtain ⟨-, rfl⟩ := roundStep_eq_next.mp (e.symm.trans h)
  rfl

theorem datapath_of_final {s s' : State} (h : step s = .next s')
    (hp : s.nextEvent.performs 0x05000000#32 .roundsDone s = true) : datapath s' = datapath (finalNext s) := by
  obtain ⟨rest, r, e | e⟩ := step_of_performs_final hp
  · obtain ⟨-, rfl⟩ := finalStep_eq_next.mp (e.symm.trans h)
    rfl
  · obtain ⟨t, ht, rfl⟩ := thenDo_eq_next.mp (e.symm.trans h)
    obtain ⟨-, rfl⟩ := finalStep_eq_next.mp ht
    rfl

/-- How a step can leave the registers of the datapath, each with its cause. -/
inductive DatapathChange (s s' : State) : Prop where
  | kept (e : datapath s' = datapath s)
  | cleared (h : s.nextEvent.startsMessage = true) (e : datapath s' = datapath (initState s))
  | seeded (hp : s.phase = .load) (h : s.issues 0x02000000#32 ∨ s.issues 0x06000000#32)
      (e : datapath s' = datapath (seedStep s))
  | scheduled (h : s.nextEvent.performs 0x03000000#32 .sched s = true) (e : datapath s' = datapath (schedNext s))
  | rounded (h : s.nextEvent.performs 0x04000000#32 .compress s = true) (e : datapath s' = datapath (roundNext s))
  | finished (h : s.nextEvent.performs 0x05000000#32 .roundsDone s = true) (hp : s'.phase = .load)
      (e : datapath s' = datapath (finalNext s))

theorem step_datapathChange {s s' : State} (h : step s = .next s') : DatapathChange s s' := by
  obtain ⟨rest, r, c, hc, hchange⟩ := step_change h
  cases hchange with
  | same => exact .kept rfl
  | recorded => exact .kept rfl
  | errCleared => exact .kept rfl
  | loaded => exact .kept rfl
  | ranOn => exact .kept rfl
  | inited => exact .cleared (by rw [nextEvent_of_issues (issues_of_hasCause hc), startsMessage_cmdAccess]; rfl) rfl
  | wasReset => exact .cleared (by rw [(nextEvent_of_hasCause hc).2.1 rfl]; rfl) rfl
  | started hb hp => exact .seeded hp (.inl (issues_of_hasCause hc)) rfl
  | ranFromLoad hb hp => exact .seeded hp (.inr (issues_of_hasCause hc)) rfl
  | scheduled hb hp => exact .scheduled (performs_of_issues (issues_of_hasCause hc) hb hp) rfl
  | rounded hb hp => exact .rounded (performs_of_issues (issues_of_hasCause hc) hb hp) rfl
  | finaled hb hp => exact .finished (performs_of_issues (issues_of_hasCause hc) hb hp) rfl rfl
  | coreScheduled hb hp => exact .scheduled (performs_of_coreIsNext hc hb hp) rfl
  | coreRounded hb hp => exact .rounded (performs_of_coreIsNext hc hb hp) rfl
  | coreFinaled hb hp => exact .finished (performs_of_coreIsNext hc hb hp) rfl rfl

/-! The slots of a..h and of HS (R68, R171, R175). -/

theorem slot_seedVars (hs : Vector Word 8) {k : Nat} (hk : k < 8) : (seedVars hs).slot k = hs[k] := by
  interval_cases k <;> rfl

theorem getElem_addHash (hs : Vector Word 8) (v : WorkVars) {k : Nat} (hk : k < 8) :
    (addHash hs v)[k] = hs[k] + v.slot k := by
  interval_cases k <;> rfl

theorem hashAt_of_lt (s : State) {k : Nat} (hk : k < 8) : s.hashAt k = s.hs[k] := by
  simp [State.hashAt, hk]

/-- Settles O44, by cases on how a step can leave the datapath. -/
theorem hashStateChangesOnlyAtFinalInitOrReset : Obligations.HashStateChangesOnlyAtFinalInitOrReset := by
  intro s s' h
  cases step_datapathChange h with
  | kept e => exact .inl (hs_of_datapath e :)
  | cleared hm e => exact .inr (.inl ⟨(hs_of_datapath e :), agent_of_startsMessage hm⟩)
  | seeded _ _ e => exact .inl (hs_of_datapath e :)
  | scheduled _ e => exact .inl (hs_of_datapath e :)
  | rounded _ e => exact .inl (hs_of_datapath e :)
  | finished hperf hload e =>
    obtain ⟨hp, ha⟩ := agent_of_performs hperf
    refine .inr (.inr ⟨hp, hload, ha, fun k hk => ?_⟩)
    have hhs : s'.hs = addHash s.hs s.wv := (hs_of_datapath e :)
    rw [hashAt_of_lt s' hk, hashAt_of_lt s hk, ← getElem_addHash s.hs s.wv hk]
    simp only [hhs]

/-- Settles O45, by cases on how a step can leave the datapath. -/
theorem workingVariablesHaveThreeWriters : Obligations.WorkingVariablesHaveThreeWriters := by
  intro s s' h
  cases step_datapathChange h with
  | kept e => exact .inl (wv_of_datapath e :)
  | cleared hm e => exact .inr (.inl ⟨(wv_of_datapath e :), agent_of_startsMessage hm⟩)
  | seeded hp hi e =>
    have hwv : s'.wv = seedVars s.hs := (wv_of_datapath e :)
    exact .inr (.inr (.inl ⟨hp, hi, fun k hk => by rw [hwv, slot_seedVars _ hk, hashAt_of_lt s hk]⟩))
  | scheduled _ e => exact .inl (wv_of_datapath e :)
  | rounded hperf e =>
    obtain ⟨hp, ha⟩ := agent_of_performs hperf
    exact .inr (.inr (.inr ⟨hp, ha, (wv_of_datapath e :)⟩))
  | finished _ _ e => exact .inl (wv_of_datapath e :)

/-- The round's observation registers change at a round step, INIT and reset only (R30). -/
theorem obs_kept {s s' : State} (h : step s = .next s') (hm : s.nextEvent.startsMessage = false)
    (hr : s.nextEvent.performs 0x04000000#32 .compress s = false) : s'.obs = s.obs := by
  cases step_datapathChange h with
  | kept e => exact (obs_of_datapath e :)
  | cleared hm' => simp [hm'] at hm
  | seeded _ _ e => exact (obs_of_datapath e :)
  | scheduled _ e => exact (obs_of_datapath e :)
  | rounded hr' => simp [hr'] at hr
  | finished _ _ e => exact (obs_of_datapath e :)

/-- The schedule's observation registers change at a schedule step, INIT and reset only (R31). -/
theorem ssigs_kept {s s' : State} (h : step s = .next s') (hm : s.nextEvent.startsMessage = false)
    (hr : s.nextEvent.performs 0x03000000#32 .sched s = false) : s'.ssig0 = s.ssig0 ∧ s'.ssig1 = s.ssig1 := by
  cases step_datapathChange h with
  | kept e => exact (ssigs_of_datapath e :)
  | cleared hm' => simp [hm'] at hm
  | seeded _ _ e => exact (ssigs_of_datapath e :)
  | scheduled hr' => simp [hr'] at hr
  | rounded _ e => exact (ssigs_of_datapath e :)
  | finished _ _ e => exact (ssigs_of_datapath e :)

/-- Settles O46: each clause is what the event's own step leaves, or what every other step keeps. -/
theorem observationRegistersHoldTheLastStep : Obligations.ObservationRegistersHoldTheLastStep := by
  intro s s' h
  refine ⟨fun hm => ?_, fun hp => (obs_of_datapath (datapath_of_round h hp) :), obs_kept h, fun hp => ?_, ssigs_kept h⟩
  · have e := datapath_of_startsMessage h hm
    exact ⟨(obs_of_datapath e :), (ssigs_of_datapath e :)⟩
  · have e := datapath_of_sched h hp
    exact (ssigs_of_datapath e :)

/-- BLKCNT changes at a final step, INIT and reset only (R29). -/
theorem blkcnt_kept {s s' : State} (h : step s = .next s') (hm : s.nextEvent.startsMessage = false)
    (hf : s.nextEvent.performs 0x05000000#32 .roundsDone s = false) : s'.blkcnt = s.blkcnt := by
  cases step_datapathChange h with
  | kept e => exact (blkcnt_of_datapath e :)
  | cleared hm' => simp [hm'] at hm
  | seeded _ _ e => exact (blkcnt_of_datapath e :)
  | scheduled _ e => exact (blkcnt_of_datapath e :)
  | rounded _ e => exact (blkcnt_of_datapath e :)
  | finished hf' => simp [hf'] at hf

/-- Settles O47: a final step adds 1, INIT and reset give 0, and every other step keeps BLKCNT. -/
theorem blkcntCountsFinalSteps : Obligations.BlkcntCountsFinalSteps := fun _ _ h =>
  ⟨fun hm => (blkcnt_of_datapath (datapath_of_startsMessage h hm) :),
    fun hf => (blkcnt_of_datapath (datapath_of_final h hf) :), blkcnt_kept h⟩

/-! The error register. -/

/-- All a step can do to ERR: keep it, record an error, or clear it (R197, R222, R250). -/
theorem change_err {c : Cause} {u t : State} (h : Change u c t) :
    t.err = u.err ∨ (∃ e, e ≠ .none ∧ t.err = u.err.record e) ∨ t.err = .clear := by
  cases h with
  | recorded _ _ e he => exact .inr (.inl ⟨e, he, rfl⟩)
  | errCleared => exact .inr (.inr rfl)
  | wasReset => exact .inr (.inr rfl)
  | _ => exact .inl rfl

/-- After an error is recorded CODE is not 0 (R222). -/
theorem record_code_ne_none {r : ErrReg} {e : ErrCode} (he : e ≠ .none) : (r.record e).code ≠ .none := by
  obtain ⟨-, h⟩ | ⟨hr, h⟩ := record_cases r e
  · rwa [h]
  · rwa [h]

/-- Settles O41: recording an error leaves CODE nonzero, and what clears CODE clears MULTI. -/
theorem multiOnlyAfterAnError : Obligations.MultiOnlyAfterAnError := by
  refine ⟨by decide, fun s s' hi h => ?_⟩
  obtain ⟨rest, r, c, -, hc⟩ := step_change h
  obtain e | ⟨code, hcode, e⟩ | e := change_err hc
  · rw [State.ErrInv, e]; exact hi
  · intro _; rw [e]; exact record_code_ne_none hcode
  · rw [State.ErrInv, e]; decide

end Sys2Proof.Proofs
end

section
/-! PROOFS. STATUS bit by bit (spec/10_state.md R33), and the reset table (R38). -/

namespace Sys2Proof.Proofs

open Sys2Proof.Machine

/-- A flag shifted to bit n is that bit and no other. -/
theorem getLsbD_flag_shiftLeft (b : Bool) {n i : Nat} (hi : i < 32) :
    (flag b <<< n).getLsbD i = (decide (i = n) && b) := by
  cases b
  · simp [flag]
  · obtain h | rfl | h := Nat.lt_trichotomy i n
    · simp [flag, h, h.ne]
    · simp [flag, hi]
    · simp [flag, h.ne', show i - n ≠ 0 by omega]

/-- A 7-bit index shifted to bit n stands from bit n up. -/
theorem getLsbD_index_shiftLeft (x : BitVec 7) {n i : Nat} (hi : i < 32) :
    (x.setWidth 32 <<< n).getLsbD i = (decide (n ≤ i) && x.getLsbD (i - n)) := by
  by_cases h : n ≤ i <;> simp [h, hi]

/-- Bit i of STATUS, as the bits of its fields (R33). -/
def statusBit (s : State) (i : Nat) : Bool :=
  s.phase.bits.getLsbD i || (decide (i = 3) && s.busy) || (decide (i = 4) && s.wfull)
    || (decide (8 ≤ i) && s.sIdx.getLsbD (i - 8)) || (decide (16 ≤ i) && s.tIdx.getLsbD (i - 16))
    || (decide (i = 31) && s.errf)

theorem getLsbD_status (s : State) {i : Nat} (hi : i < 32) : s.status.getLsbD i = statusBit s i := by
  simp only [State.status, statusBit, BitVec.getLsbD_or, getLsbD_flag_shiftLeft _ hi, getLsbD_index_shiftLeft _ hi,
    BitVec.getLsbD_setWidth, hi, decide_true, Bool.true_and]

/-- A field of STATUS from its bits. -/
theorem extract_status (s : State) {start len : Nat} {x : BitVec len} (h : start + len ≤ 32)
    (hx : ∀ i < len, statusBit s (start + i) = x.getLsbD i) : s.status.extractLsb' start len = x := by
  apply BitVec.eq_of_getLsbD_eq
  intro i hi
  simp only [BitVec.getLsbD_extractLsb', hi, decide_true, Bool.true_and]
  rw [getLsbD_status s (by omega), hx i hi]

/-- Settles O14, bit by bit through `getLsbD_status`: no two fields share a bit. -/
theorem statusShowsTheState : Obligations.StatusShowsTheState := by
  intro s
  have hwrite (v : Word) : access { we := true, off := 0x008#12, size := .word, wdata := v } s =
      .next ((s.raise .ro).setReply .ack) := by
    rw [access_write (g := .status) (by decide)]
    rfl
  have hphase : s.status.extractLsb' 0 2 = s.phase.bits := by
    refine extract_status s (by decide) fun i hi => ?_
    interval_cases i <;> simp [statusBit]
  refine ⟨hphase.trans (by cases s.phase <;> rfl), ?b2, ?b3, ?b4, extract_status s (by decide) fun i hi => ?r5,
    extract_status s (by decide) fun i hi => ?sidx, ?b15, extract_status s (by decide) fun i hi => ?tidx,
    extract_status s (by decide) fun i hi => ?r23, ?b31, hwrite⟩
  case r5 | sidx | tidx | r23 => interval_cases i <;> simp [statusBit]
  case b2 | b3 | b4 | b15 | b31 =>
    rw [getLsbD_status s (by decide)]
    simp [statusBit, State.wfull, State.allLoaded, State.errf, bne, beq_eq_decide]

/-- Settles O11: `Reset()` gives each element the value of `State.reset`, the table of R38. -/
theorem resetGivesEveryElementItsValue : Obligations.ResetGivesEveryElementItsValue := by
  intro s rest hi
  have hword : ∀ j < 64, (State.reset.setInputs rest).wordAt j = 0#32 ∧ (State.reset.setInputs rest).valid j = false := by
    intro j _
    refine ⟨wordAt_setSchedule_zero (State.reset.setInputs rest) j, ?_⟩
    rw [Bool.eq_false_iff, Ne, valid_iff]
    simp [State.reset]
  exact ⟨_, step_reset hi, rfl, rfl, rfl, hword, rfl, rfl, rfl, rfl, rfl, rfl, rfl, rfl, rfl, rfl, rfl⟩

end Sys2Proof.Proofs
end

section
/-! PROOFS. The events to come are no input of a step but its first one: a step commutes with any change of the rest of the
list, and so a list that is followed event by event is also run as one. -/

namespace Sys2Proof.Proofs

open Sys2Proof.Machine

/-- The operation neither reads the events to come nor changes them. -/
def IgnoresInputs (f : State → Result) : Prop :=
  ∀ (u : State) (l : List Event), f (u.setInputs l) = thenDo (f u) (·.setInputs l)

/-- A check that does not look at the events to come. -/
theorem ite_thenDo {p : Prop} [Decidable p] {a b a' b' : Result} {f : State → State} (h : a' = thenDo a f)
    (h' : b' = thenDo b f) : (if p then a' else b') = thenDo (if p then a else b) f := by
  rw [h, h']; exact (apply_ite (thenDo · f) p a b).symm

theorem unlessBusy_ignoresInputs {rule : State → Result} (h : IgnoresInputs rule) : IgnoresInputs (unlessBusy rule) :=
  fun u l => ite_thenDo rfl (h u l)

theorem schedStep_ignoresInputs : IgnoresInputs schedStep := fun _ _ => ite_thenDo rfl rfl

theorem roundStep_ignoresInputs : IgnoresInputs roundStep := fun _ _ => ite_thenDo rfl rfl

theorem finalStep_ignoresInputs : IgnoresInputs finalStep := fun _ _ => ite_thenDo rfl rfl

theorem exec_ignoresInputs (i : Instr) : IgnoresInputs (exec i) := by
  cases i with
  | init => exact fun _ _ => rfl
  | nop => exact unlessBusy_ignoresInputs fun _ _ => rfl
  | start => exact unlessBusy_ignoresInputs fun _ _ => ite_thenDo rfl rfl
  | sched => exact unlessBusy_ignoresInputs fun u l => ite_thenDo (schedStep_ignoresInputs u l) rfl
  | round => exact unlessBusy_ignoresInputs fun u l => ite_thenDo (roundStep_ignoresInputs u l) rfl
  | final => exact unlessBusy_ignoresInputs fun u l => ite_thenDo (finalStep_ignoresInputs u l) rfl
  | run => exact unlessBusy_ignoresInputs fun _ _ => ite_thenDo (ite_thenDo rfl rfl) rfl

theorem coreStep_ignoresInputs : IgnoresInputs coreStep := by
  intro u l
  cases hp : u.phase with
  | load => simp [coreStep, hp, thenDo]
  | sched => simpa [coreStep, hp] using schedStep_ignoresInputs u l
  | compress => simpa [coreStep, hp] using roundStep_ignoresInputs u l
  | roundsDone =>
    simp only [coreStep, State.setInputs_phase, hp, finalStep_ignoresInputs u l]
    cases finalStep u <;> rfl

theorem coreTurn_ignoresInputs : IgnoresInputs coreTurn :=
  fun u l => ite_thenDo (coreStep_ignoresInputs u l) rfl

theorem wordLoad_setInputs (j : Nat) (v : Word) (u : State) (l : List Event) :
    wordLoad j v (u.setInputs l) = (wordLoad j v u).setInputs l := by
  by_cases hb : u.busy = true
  · rw [wordLoad_of_busy hb, wordLoad_of_busy (u := u.setInputs l) hb]; rfl
  by_cases hp : u.phase = .load
  · rw [wordLoad_of_load hb hp, wordLoad_of_load (u := u.setInputs l) hb hp]; rfl
  · rw [wordLoad_of_ne_load hb hp, wordLoad_of_ne_load (u := u.setInputs l) hb hp]; rfl

theorem writeTarget_ignoresInputs (g : Target) (v : Word) : IgnoresInputs (writeTarget g v) := by
  refine fun u l => ite_thenDo rfl ?_
  cases g with
  | cmd =>
    cases hd : decode v with
    | error e => simp only [cmdWrite_error hd]; rfl
    | ok i => simp only [cmdWrite_ok hd]; exact exec_ignoresInputs i u l
  | schedWord j => exact congrArg Host.Outcome.next (wordLoad_setInputs j v u l)
  | _ => rfl

theorem answerRead_setInputs (g : Target) (u : State) (l : List Event) :
    answerRead (readTarget g (u.setInputs l)) = (answerRead (readTarget g u)).setInputs l := by
  cases g with
  | schedWord j =>
    by_cases hv : u.valid j = true
    · simp only [readTarget, wordRead, if_pos hv, if_pos (show (u.setInputs l).valid j = true from hv)]; rfl
    · simp only [readTarget, wordRead, if_neg hv, if_neg (show ¬ (u.setInputs l).valid j = true from hv)]; rfl
  | _ => rfl

theorem access_ignoresInputs (x : Access) : IgnoresInputs (access x) := by
  intro u l
  unfold access
  split
  · rfl
  · exact ite_thenDo (writeTarget_ignoresInputs _ _ (u.setReply .ack) l)
      (congrArg Host.Outcome.next (answerRead_setInputs _ u l))

/-- A step takes its event and leaves the rest of the list as it is. -/
theorem step_setInputs_cons (s : State) (e : Event) (l : List Event) :
    step (s.setInputs (e :: l)) = thenDo (step (s.setInputs [e])) (·.setInputs l) := by
  cases e with
  | core => exact coreTurn_ignoresInputs ((s.setInputs []).setReply .quiet) l
  | reset => rfl
  | access x => exact access_ignoresInputs x (s.setInputs []) l

/-- What a list of events leads to when followed, it leads to when run. -/
theorem runSteps_of_follow {l : List Event} {s t : State} {h h' : History} (hf : follow l s h = some (t, h')) :
    runSteps l.length (s.setInputs l) = .next (t.setInputs []) := by
  induction l generalizing s h with
  | nil =>
    obtain ⟨rfl, -⟩ : s = t ∧ h = h' := by simpa using hf
    rfl
  | cons e l ih =>
    obtain ⟨u, hu, hf⟩ := follow_cons_eq_some.mp hf
    have hs : step (s.setInputs (e :: l)) = .next (u.setInputs l) := by rw [step_setInputs_cons, hu]; rfl
    simpa only [List.length_cons, runSteps, hs] using ih hf

end Sys2Proof.Proofs
end

section
/-! PROOFS. What the datapath computes for one block (spec/42_compressor.md R170 to R178): its steps iterated, with no events,
compared with the reference on plain lists. -/

namespace Sys2Proof.Proofs

open Sys2Proof.Machine

/-! The schedule (R154, R155). -/

/-- The last word of a longer schedule is the next word of the shorter. -/
theorem expandBy_succ (n : Nat) (ws : List Word) : expandBy (n + 1) ws = expandBy n ws ++ [nextWord (expandBy n ws)] := by
  induction n generalizing ws with
  | zero => rfl
  | succ n ih => exact ih (ws ++ [nextWord ws])

theorem length_expandBy (n : Nat) (ws : List Word) : (expandBy n ws).length = ws.length + n := by
  induction n generalizing ws with
  | zero => rfl
  | succ n ih => simp only [expandBy, ih, List.length_append, List.length_singleton]; omega

theorem getD_expandBy (n : Nat) {ws : List Word} {j : Nat} (hj : j < ws.length) :
    (expandBy n ws).getD j 0#32 = ws.getD j 0#32 := by
  induction n with
  | zero => rfl
  | succ n ih => rw [expandBy_succ, List.getD_append _ _ _ _ (by rw [length_expandBy]; omega), ih]

/-- The schedule memory begins with these words. -/
def HoldsWords (s : State) (ws : List Word) : Prop := ∀ j < ws.length, s.wordAt j = ws.getD j 0#32

/-- What a block leaves alone from its loads up to its final step: HS, BLKCNT, ERR and BUSY. -/
def untilFinal (s : State) : Vector Word 8 × Word × ErrReg × Bool := (s.hs, s.blkcnt, s.err, s.busy)

theorem untilFinal_eq_iff {s t : State} :
    untilFinal s = untilFinal t ↔ s.hs = t.hs ∧ s.blkcnt = t.blkcnt ∧ s.err = t.err ∧ s.busy = t.busy := by
  simp [untilFinal]

theorem busy_of_untilFinal {s t : State} (h : untilFinal s = untilFinal t) : s.busy = t.busy := by
  obtain ⟨-, -, -, hb⟩ := untilFinal_eq_iff.mp h
  exact hb

/-- The schedule has got as far as `ws` (R26, R35). -/
structure Scheduled (ws : List Word) (s : State) : Prop where
  phase : s.phase = if ws.length = 64 then .compress else .sched
  sIdx  : s.sIdx.toNat = ws.length
  tIdx  : s.tIdx = 0#7
  full  : s.wloaded = 0xFFFF#16
  words : HoldsWords s ws

/-- The operands of the schedule step give the next word of the list. -/
theorem schedWordOf_operands {ws : List Word} {s : State} (hi : s.sIdx.toNat = ws.length) (h16 : 16 ≤ ws.length)
    (h : HoldsWords s ws) : schedWordOf s.schedOperands = nextWord ws := by
  simp only [schedWordOf, State.schedOperands, nextWord, hi]
  rw [h _ (by omega), h _ (by omega), h _ (by omega), h _ (by omega)]

theorem holdsWords_concat {ws : List Word} {s : State} {v : Word} (h : HoldsWords s ws) (h64 : ws.length < 64) :
    HoldsWords (s.setWord ws.length v) (ws ++ [v]) := by
  intro j hj
  obtain hlt | rfl : j < ws.length ∨ j = ws.length := by simp at hj; omega
  · rw [wordAt_setWord_other _ hlt.ne', h j hlt, List.getD_append _ _ _ _ hlt]
  · rw [wordAt_setWord_same _ h64]; simp

/-- While the schedule is short of 64 words, its state meets SCHED's row of R35. -/
theorem Scheduled.ready {ws : List Word} {s : State} (h : Scheduled ws s) (h16 : 16 ≤ ws.length) (h64 : ws.length < 64) :
    s.phase = .sched ∧ s.sequenceOk = true := by
  have hp : s.phase = .sched := by rw [h.phase, if_neg h64.ne]
  exact ⟨hp, (sequenceOk_of_sched hp).mpr ⟨by rw [h.sIdx]; omega, by rw [h.sIdx]; omega, h.tIdx, h.full⟩⟩

/-- A schedule step appends the next word (R154). -/
theorem Scheduled.next {ws : List Word} {s : State} (h : Scheduled ws s) (h16 : 16 ≤ ws.length) (h64 : ws.length < 64) :
    Scheduled (ws ++ [nextWord ws]) (schedNext s) := by
  have hi : s.sIdx.toNat ≤ 63 := by rw [h.sIdx]; omega
  refine ⟨?_, ?_, h.tIdx, h.full, fun j hj => ?_⟩
  · rw [schedNext_phase (h.ready h16 h64).1 hi, h.sIdx, List.length_append, List.length_singleton]
    exact if_congr (by omega) rfl rfl
  · rw [show (schedNext s).sIdx.toNat = s.sIdx.toNat + 1 from toNat_add_one hi, h.sIdx]; simp
  · rw [← holdsWords_concat h.words h64 j hj, ← schedWordOf_operands h.sIdx h16 h.words, ← h.sIdx]; rfl

/-- k schedule steps append k words. -/
theorem Scheduled.iterate {ws : List Word} {s : State} (h : Scheduled ws s) (h16 : 16 ≤ ws.length) {k : Nat}
    (hk : ws.length + k ≤ 64) : Scheduled (expandBy k ws) (schedNext^[k] s) := by
  induction k with
  | zero => exact h
  | succ k ih =>
    rw [Function.iterate_succ_apply', expandBy_succ]
    have hl := length_expandBy k ws
    exact (ih (by omega)).next (by omega) (by omega)

theorem schedNext_iterate_kept (k : Nat) (s : State) :
    untilFinal (schedNext^[k] s) = untilFinal s ∧ (schedNext^[k] s).wv = s.wv := by
  induction k with
  | zero => exact ⟨rfl, rfl⟩
  | succ k ih => rw [Function.iterate_succ_apply']; exact ih

/-! The rounds (R173). -/

/-- n rounds of the block with schedule `ws` are done, from working variables `v` (R26, R35). -/
structure Rounded (ws : List Word) (v : WorkVars) (n : Nat) (s : State) : Prop where
  phase : s.phase = if n = 64 then .roundsDone else .compress
  sIdx  : s.sIdx = 64#7
  tIdx  : s.tIdx.toNat = n
  full  : s.wloaded = 0xFFFF#16
  words : HoldsWords s ws
  wv    : s.wv = roundsOf ws v n

/-- A complete schedule with no round done. -/
theorem Scheduled.rounded {ws : List Word} {s : State} (h : Scheduled ws s) (h64 : ws.length = 64) :
    Rounded ws s.wv 0 s where
  phase := by rw [h.phase, if_pos h64]; rfl
  sIdx  := BitVec.eq_of_toNat_eq (h.sIdx.trans h64)
  tIdx  := by rw [h.tIdx]; rfl
  full  := h.full
  words := h.words
  wv    := rfl

/-- Before round 63 is done, the state meets COMPRESS's row of R35. -/
theorem Rounded.ready {ws : List Word} {v : WorkVars} {n : Nat} {s : State} (h : Rounded ws v n s) (hn : n < 64) :
    s.phase = .compress ∧ s.sequenceOk = true := by
  have hp : s.phase = .compress := by rw [h.phase, if_neg hn.ne]
  exact ⟨hp, (sequenceOk_of_compress hp).mpr ⟨h.sIdx, by rw [h.tIdx]; omega, h.full⟩⟩

/-- After round 63 the state meets ROUNDS_DONE's row of R35. -/
theorem Rounded.done {ws : List Word} {v : WorkVars} {s : State} (h : Rounded ws v 64 s) :
    s.phase = .roundsDone ∧ s.sequenceOk = true :=
  ⟨h.phase, (sequenceOk_of_roundsDone h.phase).mpr ⟨h.sIdx, BitVec.eq_of_toNat_eq h.tIdx, h.full⟩⟩

/-- A round step does the next round (R173). -/
theorem Rounded.next {ws : List Word} {v : WorkVars} {n : Nat} {s : State} (h : Rounded ws v n s)
    (h64 : ws.length = 64) (hn : n < 64) : Rounded ws v (n + 1) (roundNext s) := by
  have hi : s.tIdx.toNat ≤ 63 := by rw [h.tIdx]; omega
  refine ⟨?_, h.sIdx, (toNat_add_one hi).trans (by rw [h.tIdx]), h.full, h.words, ?_⟩
  · rw [roundNext_phase (h.ready hn).1 hi, h.tIdx]
    exact if_congr (by omega) rfl rfl
  · rw [roundsOf, ← h.wv, ← h.words n (by omega), ← h.tIdx]; rfl

theorem Rounded.iterate {ws : List Word} {v : WorkVars} {s : State} (h : Rounded ws v 0 s) (h64 : ws.length = 64) {k : Nat}
    (hk : k ≤ 64) : Rounded ws v k (roundNext^[k] s) := by
  induction k with
  | zero => exact h
  | succ k ih => rw [Function.iterate_succ_apply']; exact (ih (by omega)).next h64 (by omega)

theorem roundNext_iterate_kept (k : Nat) (s : State) : untilFinal (roundNext^[k] s) = untilFinal s := by
  induction k with
  | zero => rfl
  | succ k ih => rw [Function.iterate_succ_apply']; exact ih

/-! From the seed to the final step. -/

/-- All sixteen block words of `m` are loaded, and the block is not begun. -/
structure Loaded (m : Vector Word 16) (s : State) : Prop where
  phase : s.phase = .load
  full  : s.wloaded = 0xFFFF#16
  words : HoldsWords s m.toList

/-- START begins the schedule with the block's own words (R171). -/
theorem Loaded.seeded {m : Vector Word 16} {s : State} (h : Loaded m s) : Scheduled m.toList (seedStep s) where
  phase := by simp [seedStep]
  sIdx  := by simp [seedStep]
  tIdx  := rfl
  full  := h.full
  words := h.words

/-- The block from START on, k schedule steps later. -/
def schedAfter (s : State) (k : Nat) : State := schedNext^[k] (seedStep s)

/-- The block with its schedule complete, k rounds later. -/
def roundAfter (s : State) (k : Nat) : State := roundNext^[k] (schedAfter s 48)

theorem schedAfter_succ (s : State) (k : Nat) : schedAfter s (k + 1) = schedNext (schedAfter s k) :=
  Function.iterate_succ_apply' _ _ _

theorem roundAfter_succ (s : State) (k : Nat) : roundAfter s (k + 1) = roundNext (roundAfter s k) :=
  Function.iterate_succ_apply' _ _ _

theorem Loaded.scheduled {m : Vector Word 16} {s : State} (h : Loaded m s) {k : Nat} (hk : k ≤ 48) :
    Scheduled (expandBy k m.toList) (schedAfter s k) :=
  h.seeded.iterate (by simp) (by simp; omega)

theorem length_expand (m : Vector Word 16) : (expand m).length = 64 := by simp [expand, length_expandBy]

theorem untilFinal_schedAfter (s : State) (k : Nat) : untilFinal (schedAfter s k) = untilFinal s :=
  (schedNext_iterate_kept k _).1

theorem untilFinal_roundAfter (s : State) (k : Nat) : untilFinal (roundAfter s k) = untilFinal s :=
  (roundNext_iterate_kept k _).trans (untilFinal_schedAfter s 48)

theorem Loaded.rounded {m : Vector Word 16} {s : State} (h : Loaded m s) {k : Nat} (hk : k ≤ 64) :
    Rounded (expand m) (seedVars s.hs) k (roundAfter s k) := by
  have hwv : (schedAfter s 48).wv = seedVars s.hs := (schedNext_iterate_kept 48 _).2
  have hr := (h.scheduled (Nat.le_refl 48)).rounded (length_expand m)
  rw [hwv] at hr
  exact hr.iterate (length_expand m) hk

/-- The words of the block are still the first sixteen of the complete schedule. -/
theorem Rounded.blockInProgress {m : Vector Word 16} {v : WorkVars} {n : Nat} {s : State} (h : Rounded (expand m) v n s) :
    s.blockInProgress = m := by
  refine Vector.ext fun j hj => ?_
  have hw := h.words j (by rw [length_expand]; omega)
  rw [expand, getD_expandBy 48 (by simpa using hj)] at hw
  simpa [State.blockInProgress, hj] using hw

/-- What a whole block leaves of a state: HS is `compress` of the expanded block, BLKCNT is one up, the device waits for the
next block, and ERR is as it was (R175, R178). -/
structure BlockDone (m : Vector Word 16) (s t : State) : Prop where
  hs     : t.hs = compress (expand m) s.hs
  blkcnt : t.blkcnt = s.blkcnt + 1#32
  err    : t.err = s.err
  phase  : t.phase = .load
  busy   : t.busy = false

/-- The final step after 64 rounds ends the block that was seeded from HS (R175). -/
theorem Rounded.blockDone {m : Vector Word 16} {s t : State} (h : Rounded (expand m) (seedVars s.hs) 64 t)
    (hk : untilFinal t = untilFinal s) (hb : s.busy = false) : BlockDone m s (finalNext t) := by
  obtain ⟨hhs, hn, herr, hbusy⟩ := untilFinal_eq_iff.mp hk
  refine ⟨?_, ?_, herr, rfl, hbusy.trans hb⟩
  · rw [compress, ← h.wv, ← hhs]; rfl
  · rw [← hn]; rfl

/-- What a block leaves depends only on what stands until its final step. -/
theorem BlockDone.of_untilFinal {m : Vector Word 16} {s s' t : State} (h : BlockDone m s' t)
    (hk : untilFinal s' = untilFinal s) : BlockDone m s t := by
  obtain ⟨hhs, hn, herr, -⟩ := untilFinal_eq_iff.mp hk
  exact ⟨hhs ▸ h.hs, hn ▸ h.blkcnt, herr ▸ h.err, h.phase, h.busy⟩

/-- The block once it is done. -/
def blockEnd (s : State) : State := finalNext (roundAfter s 64)

theorem Loaded.blockDone {m : Vector Word 16} {s : State} (h : Loaded m s) (hb : s.busy = false) :
    BlockDone m s (blockEnd s) :=
  (h.rounded (Nat.le_refl 64)).blockDone (untilFinal_roundAfter s 64) hb

end Sys2Proof.Proofs
end

section
/-! PROOFS. Blocks by the host's events (spec/30_encoding.md R107, R108): what LOADBLK and the single steps lead to, with the
history they leave, for one block and for the blocks of a message (spec/42_compressor.md R176, spec/43_control.md R199). -/

namespace Sys2Proof.Proofs

open Sys2Proof.Machine

/-! Events, and the history they leave. -/

/-- Followed from `s`, the events lead to `t`; they start no message and do not write ERR, and they finish the blocks `bs`. -/
def Leads (l : List Event) (s t : State) (bs : List (Vector Word 16)) : Prop :=
  ∀ h : History, ∃ r, follow l s h = some (t, { blocks := h.blocks ++ bs, errWritten := h.errWritten, errReported := r })

theorem leads_nil (s : State) : Leads [] s s [] := fun h => ⟨h.errReported, by simp⟩

theorem Leads.append {l l' : List Event} {s t u : State} {bs bs' : List (Vector Word 16)} (h : Leads l s t bs)
    (h' : Leads l' t u bs') : Leads (l ++ l') s u (bs ++ bs') := by
  intro k
  obtain ⟨r, e⟩ := h k
  obtain ⟨r', e'⟩ := h' { blocks := k.blocks ++ bs, errWritten := k.errWritten, errReported := r }
  exact ⟨r', by simpa [follow_append, e] using e'⟩

/-- The same event n times. -/
theorem leads_replicate {e : Event} {F : Nat → State} (n : Nat) (h : ∀ k < n, Leads [e] (F k) (F (k + 1)) []) :
    Leads (List.replicate n e) (F 0) (F n) [] := by
  induction n with
  | zero => exact leads_nil _
  | succ n ih =>
    rw [List.replicate_succ']
    exact (ih fun k hk => h k (by omega)).append (h n (by omega))

/-- One event, by its step. -/
theorem leads_of_step {e : Event} {s t : State} (hs : step (s.setInputs [e]) = .next t) (hm : e.startsMessage = false)
    (hw : e.writesErr = false) :
    Leads [e] s t (if e.performs 0x05000000#32 .roundsDone s then [s.blockInProgress] else []) := by
  intro h
  refine ⟨h.errReported || e.reportsError s, follow_cons_eq_some.mpr ⟨t, hs, ?_⟩⟩
  rw [follow_nil, History.after_other hm, hw, Bool.or_false]
  split <;> simp

/-- Outside ROUNDS_DONE no event finishes a block. -/
theorem leads_of_step_inside {e : Event} {s t : State} (hs : step (s.setInputs [e]) = .next t)
    (hm : e.startsMessage = false) (hw : e.writesErr = false) (hp : s.phase ≠ .roundsDone) : Leads [e] s t [] := by
  have h := leads_of_step hs hm hw
  rwa [if_neg fun hf => hp (performs_iff.mp hf).1] at h

/-- `s` with no event to come and the acknowledge of a write on the bus port. -/
def acked (s : State) : State := (s.setInputs []).setReply .ack

theorem BlockDone.acked {m : Vector Word 16} {s t : State} (h : BlockDone m s t) : BlockDone m s (acked t) :=
  ⟨h.hs, h.blkcnt, h.err, h.phase, h.busy⟩

theorem decode_encode (i : Instr) : decode (encode i) = .ok i := by cases i <;> rfl

/-- A command as the next event. -/
theorem step_cmd (i : Instr) (s : State) : step (s.setInputs [cmd i]) = exec i (acked s) := by
  rw [step_access (x := cmdAccess (encode i)) rfl, access_cmd, cmdWrite_ok (decode_encode i)]; rfl

theorem startsMessage_cmd {i : Instr} (hi : i ≠ .init) : (cmd i).startsMessage = false := by
  cases i with
  | init => exact absurd rfl hi
  | _ => rfl

theorem leads_cmd {i : Instr} {s t : State} (hi : i ≠ .init) (hp : s.phase ≠ .roundsDone)
    (h : exec i (acked s) = .next t) : Leads [cmd i] s t [] :=
  leads_of_step_inside ((step_cmd i s).trans h) (startsMessage_cmd hi) rfl hp

/-! With BUSY = 0 a command is its rule. -/

theorem unlessBusy_idle {rule : State → Result} {s : State} (hb : s.busy = false) : unlessBusy rule s = rule s := by
  simp [unlessBusy, hb]

/-- The rule of SCHED, ROUND and FINAL in its own phase, where R35 holds: the datapath step. -/
theorem inPhase_next {p : Phase} {dstep : State → State} {s : State} (hb : s.busy = false) (hp : s.phase = p)
    (ho : s.sequenceOk = true) :
    unlessBusy (fun u => if u.phase = p then whenSequenceOk dstep u else .next (u.raise .seq)) s = .next (dstep s) :=
  (unlessBusy_idle hb).trans ((if_pos hp).trans (whenSequenceOk_next ho dstep))

theorem leads_start {s : State} (hb : s.busy = false) (hp : s.phase = .load) (hw : s.wloaded = 0xFFFF#16) :
    Leads [cmd .start] s (acked (seedStep s)) [] := by
  refine leads_cmd (by simp) (by simp [hp]) ((unlessBusy_idle (s := acked s) hb).trans ?_)
  rw [startRule, if_neg]
  · rfl
  · simp [acked, hp, State.allLoaded, hw]

theorem leads_sched {s : State} (hb : s.busy = false) (hp : s.phase = .sched) (ho : s.sequenceOk = true) :
    Leads [cmd .sched] (acked s) (acked (schedNext s)) [] :=
  leads_cmd (by simp) (by simp [acked, hp]) (inPhase_next (s := acked s) hb hp ho)

theorem leads_round {s : State} (hb : s.busy = false) (hp : s.phase = .compress) (ho : s.sequenceOk = true) :
    Leads [cmd .round] (acked s) (acked (roundNext s)) [] :=
  leads_cmd (by simp) (by simp [acked, hp]) (inPhase_next (s := acked s) hb hp ho)

theorem leads_final {s : State} (hb : s.busy = false) (hp : s.phase = .roundsDone) (ho : s.sequenceOk = true) :
    Leads [cmd .final] (acked s) (acked (finalNext s)) [s.blockInProgress] := by
  have hs : exec .final (acked s) = .next (acked (finalNext s)) := inPhase_next (s := acked s) hb hp ho
  have h := leads_of_step ((step_cmd .final (acked s)).trans hs) rfl rfl
  have hf : (cmd .final).performs 0x05000000#32 .roundsDone (acked s) = true := performs_iff.mpr ⟨hp, .inr ⟨hb, rfl⟩⟩
  rwa [if_pos hf] at h

/-- START, 48 SCHED, 64 ROUND and FINAL compute one block, and the history has that block more. -/
theorem leads_singleSteps {m : Vector Word 16} {s : State} (h : Loaded m s) (hb : s.busy = false) :
    Leads singleSteps s (acked (blockEnd s)) [m] := by
  have hbs (k : Nat) : (schedAfter s k).busy = false := (busy_of_untilFinal (untilFinal_schedAfter s k)).trans hb
  have hbr (k : Nat) : (roundAfter s k).busy = false := (busy_of_untilFinal (untilFinal_roundAfter s k)).trans hb
  have hsched : Leads (List.replicate 48 (cmd .sched)) (acked (schedAfter s 0)) (acked (schedAfter s 48)) [] := by
    refine leads_replicate (F := fun k => acked (schedAfter s k)) 48 fun k hk => ?_
    have hl : (expandBy k m.toList).length = 16 + k := by simp [length_expandBy]
    obtain ⟨hp, ho⟩ := (h.scheduled hk.le).ready (by omega) (by omega)
    simpa only [schedAfter_succ] using leads_sched (hbs k) hp ho
  have hround : Leads (List.replicate 64 (cmd .round)) (acked (roundAfter s 0)) (acked (roundAfter s 64)) [] := by
    refine leads_replicate (F := fun k => acked (roundAfter s k)) 64 fun k hk => ?_
    obtain ⟨hp, ho⟩ := (h.rounded hk.le).ready hk
    simpa only [roundAfter_succ] using leads_round (hbr k) hp ho
  have hend := h.rounded (Nat.le_refl 64)
  have hfinal := leads_final (hbr 64) hend.done.1 hend.done.2
  rw [hend.blockInProgress] at hfinal
  exact (leads_start hb h.phase h.full).append (hsched.append (hround.append hfinal))

/-! The loads (R108, R150). -/

/-- The state after the host's load of word j of the block. -/
def loadWord (m : Vector Word 16) (s : State) (j : Fin 16) : State :=
  acked ((s.setWord j m[j]).setLoaded (markLoaded s.wloaded j))

theorem leads_wr {off : BitVec 12} {j : Nat} {v : Word} {s : State} (ht : target off = some (.schedWord j)) (hj : j < 16)
    (hb : s.busy = false) (hp : s.phase = .load) :
    Leads [wr off v] s (acked ((s.setWord j v).setLoaded (markLoaded s.wloaded j))) [] := by
  have hcmd : off ≠ 0x004#12 := by rintro rfl; cases ht
  have herr : off ≠ 0x00C#12 := by rintro rfl; cases ht
  refine leads_of_step_inside ?_ (by simp [wr, Event.startsMessage, cmdAccess, hcmd])
    (by simp [wr, Event.writesErr, herr]) (by simp [hp])
  have hro : (Target.schedWord j).readOnly = false := by simpa [Target.readOnly] using hj
  rw [wr, step_access rfl, access_write ht, writeTarget, hro]
  exact congrArg Host.Outcome.next (wordLoad_of_load (u := acked s) (by simp [acked, hb]) hp)

/-- The loads of words of the block, in any order (R150). -/
theorem leads_loads (m : Vector Word 16) (js : List (Fin 16)) {s : State} (hb : s.busy = false) (hp : s.phase = .load) :
    Leads (js.map fun j => wr (schedOffset j.val) m[j]) s (js.foldl (loadWord m) s) [] := by
  induction js generalizing s with
  | nil => exact leads_nil s
  | cons j js ih =>
    exact (leads_wr (target_schedWord (by omega)) j.isLt hb hp).append (ih (s := loadWord m s j) hb hp)

theorem foldl_loadWord_kept (m : Vector Word 16) (js : List (Fin 16)) (s : State) :
    untilFinal (js.foldl (loadWord m) s) = untilFinal s ∧ (js.foldl (loadWord m) s).phase = s.phase := by
  induction js generalizing s with
  | nil => exact ⟨rfl, rfl⟩
  | cons j js ih => exact ih (loadWord m s j)

theorem wordAt_foldl_loadWord (m : Vector Word 16) (js : List (Fin 16)) (s : State) (k : Fin 16) :
    (js.foldl (loadWord m) s).wordAt k = if k ∈ js then m[k] else s.wordAt k := by
  induction js generalizing s with
  | nil => simp
  | cons j js ih =>
    rw [List.foldl_cons, ih]
    by_cases hk : k ∈ js
    · simp [hk]
    · obtain rfl | hne := eq_or_ne k j
      · simp [hk, loadWord, acked, wordAt_setWord_same s (show k.val < 64 by omega)]
      · simp [hk, hne, loadWord, acked, wordAt_setWord_other s (Fin.val_ne_of_ne hne.symm)]

theorem getLsbD_foldl_loadWord (m : Vector Word 16) (js : List (Fin 16)) (s : State) (k : Fin 16) :
    (js.foldl (loadWord m) s).wloaded.getLsbD k = (s.wloaded.getLsbD k || decide (k ∈ js)) := by
  induction js generalizing s with
  | nil => simp
  | cons j js ih =>
    rw [List.foldl_cons, ih, show (loadWord m s j).wloaded = markLoaded s.wloaded j from rfl, getLsbD_markLoaded _ k.isLt,
      Bool.or_assoc]
    simp [Fin.ext_iff]

/-- The state after LOADBLK. -/
def loadAll (m : Vector Word 16) (s : State) : State := (List.finRange 16).foldl (loadWord m) s

theorem loaded_loadAll (m : Vector Word 16) {s : State} (hp : s.phase = .load) : Loaded m (loadAll m s) where
  phase := (foldl_loadWord_kept m _ s).2.trans hp
  full  := by
    apply BitVec.eq_of_getLsbD_eq
    intro k hk
    rw [show 0xFFFF#16 = BitVec.allOnes 16 from rfl, BitVec.getLsbD_allOnes]
    simpa [loadAll, hk] using getLsbD_foldl_loadWord m (List.finRange 16) s ⟨k, hk⟩
  words j hj := by
    have hj : j < 16 := by simpa using hj
    simpa [loadAll, hj] using wordAt_foldl_loadWord m (List.finRange 16) s ⟨j, hj⟩

/-! Blocks. -/

/-- Sixteen loads and 114 commands (R108, R253). -/
theorem length_blockEvents (m : Vector Word 16) : (loadBlk m ++ singleSteps).length = 130 := by
  simp [loadBlk, singleSteps]

/-- LOADBLK and the single steps from LOAD with BUSY = 0 do one block, and the history has that block more. -/
theorem leads_block (m : Vector Word 16) {s : State} (hp : s.phase = .load) (hb : s.busy = false) :
    ∃ t, Leads (loadBlk m ++ singleSteps) s t [m] ∧ BlockDone m s t := by
  have hl := loaded_loadAll m hp
  have hk := (foldl_loadWord_kept m (List.finRange 16) s).1
  have hb' : (loadAll m s).busy = false := (busy_of_untilFinal hk).trans hb
  exact ⟨_, (leads_loads m _ hb hp).append (leads_singleSteps hl hb'), (hl.blockDone hb').acked.of_untilFinal hk⟩

/-- One block after another (R75, R176). -/
theorem leads_blocks (l : List (Vector Word 16)) {s : State} (hp : s.phase = .load) (hb : s.busy = false) :
    ∃ t, Leads (l.flatMap fun m => loadBlk m ++ singleSteps) s t l ∧
      t.hs = l.foldl (fun h m => compress (expand m) h) s.hs ∧ t.blkcnt = s.blkcnt + BitVec.ofNat 32 l.length ∧
      t.phase = .load ∧ t.busy = false ∧ t.err = s.err := by
  induction l generalizing s with
  | nil => exact ⟨s, leads_nil s, rfl, by simp, hp, hb, rfl⟩
  | cons m l ih =>
    obtain ⟨t, ht, hd⟩ := leads_block m hp hb
    obtain ⟨u, hu, hhs, hn, hup, hub, herr⟩ := ih hd.phase hd.busy
    refine ⟨u, ht.append hu, hhs.trans (by rw [hd.hs]; rfl), ?_, hup, hub, herr.trans hd.err⟩
    rw [hn, hd.blkcnt, List.length_cons, BitVec.add_assoc, Nat.add_comm, BitVec.ofNat_add]

/-- Settles O52, by the lemma for one block and induction over the list. -/
theorem blocksHashToTheReferenceDigest : Obligations.BlocksHashToTheReferenceDigest := by
  intro l
  obtain ⟨t, hl, hhs, hn, hp, hb, herr⟩ := leads_blocks l (s := State.reset) rfl rfl
  obtain ⟨r, hf⟩ := hl .fresh
  have hn : t.blkcnt = BitVec.ofNat 32 l.length := by rw [hn]; exact BitVec.zero_add _
  have hlen : (l.flatMap fun m => loadBlk m ++ singleSteps).length = 130 * l.length := by
    simp only [List.length_flatMap, length_blockEvents]; simp [Nat.mul_comm]
  have hcode : t.err.code = .none := by rw [herr]; rfl
  have hc : messageCompleted l.length t { blocks := l, errWritten := false, errReported := r } = true :=
    messageCompleted_iff.mpr ⟨rfl, rfl, hn, hp, hb, hcode⟩
  have hd : completedDigest l.length t { blocks := l, errWritten := false, errReported := r } =
      some (digest (hashBlocks l)) := completedDigest_eq_some.mpr ⟨hc, by rw [hhs]; rfl⟩
  refine ⟨⟨t.setInputs [], ?_, hhs, ?_⟩, t, _, hf, rfl, hc, hd, fun m hm => ?_⟩
  · rw [← hlen]; exact runSteps_of_follow hf
  · simp [State.messageComplete, hn, hp, hb, hcode]
  · rw [messageDigest, ← hm]; exact hd

end Sys2Proof.Proofs
end

section
/-! PROOFS. The register window (spec/20_memory.md R63 to R69): which offsets reach a register and which register, and what a
read of it does. -/

namespace Sys2Proof.Proofs

open Sys2Proof.Machine

/-! The address decode, by word number. -/

/-- The decode's chain answers nothing where no test holds. -/
theorem ite_eq_none {p : Prop} [Decidable p] {g : Target} {a : Option Target} :
    (if p then some g else a) = none ↔ ¬ p ∧ a = none := by
  by_cases h : p <;> simp [h]

/-- The word numbers that reach no register (R37, R66). -/
theorem targetAt_eq_none {n : Nat} : targetAt n = none ↔ n = 6 ∨ n = 7 ∨ (32 ≤ n ∧ n < 64) ∨ 192 ≤ n := by
  simp only [targetAt, ite_eq_none, and_true]
  omega

/-- The reserved ranges of R63, by word number. -/
theorem reservedOffset_word {n : Nat} (hn : n < 1024) :
    reservedOffset (4 * n) = true ↔ n = 6 ∨ n = 7 ∨ (32 ≤ n ∧ n < 64) ∨ 192 ≤ n := by
  simp only [reservedOffset, Bool.or_eq_true, Bool.and_eq_true, beq_iff_eq, decide_eq_true_eq]
  omega

/-- The read-only ranges of R67, by word number. -/
theorem readOnlyOffset_word {n : Nat} : readOnlyOffset (4 * n) = true ↔
    n = 0 ∨ n = 2 ∨ n = 4 ∨ n = 5 ∨ (8 ≤ n ∧ n < 32) ∨ (80 ≤ n ∧ n < 192) := by
  simp only [readOnlyOffset, Bool.or_eq_true, Bool.and_eq_true, beq_iff_eq, decide_eq_true_eq]
  omega

/-- The observation registers are read-only, and none of them is a schedule word. -/
theorem obsTarget_readOnly (n : Nat) : (obsTarget n).readOnly = true ∧ ∀ j, obsTarget n ≠ .schedWord j := by
  unfold obsTarget; split <;> exact ⟨rfl, nofun⟩

/-- What the decode's chain answers comes from a test that holds. -/
theorem of_ite_eq_some {p : Prop} [Decidable p] {a g : Target} {b : Option Target}
    (h : (if p then some a else b) = some g) : (p ∧ g = a) ∨ b = some g :=
  (ite_eq_some.mp h).imp (fun ⟨hp, e⟩ => ⟨hp, (Option.some.inj e).symm⟩) And.right

/-- The registers of the window, with their word numbers (R37). -/
theorem targetAt_eq_some {n : Nat} {g : Target} (h : targetAt n = some g) :
    (n = 0 ∧ g = .id) ∨ (n = 1 ∧ g = .cmd) ∨ (n = 2 ∧ g = .status) ∨ (n = 3 ∧ g = .err) ∨ (n = 4 ∧ g = .wloaded) ∨
      (n = 5 ∧ g = .blkcnt) ∨ ((8 ≤ n ∧ n < 16) ∧ g = .workVar (n - 8)) ∨ ((16 ≤ n ∧ n < 24) ∧ g = .hash (n - 16)) ∨
      ((24 ≤ n ∧ n < 32) ∧ g = obsTarget (n - 24)) ∨ ((64 ≤ n ∧ n < 128) ∧ g = .schedWord (n - 64)) ∨
      ((128 ≤ n ∧ n < 192) ∧ g = .kWord (n - 128)) := by
  unfold targetAt at h
  iterate 10 refine (of_ite_eq_some h).imp_right fun h => ?_
  exact (of_ite_eq_some h).resolve_right nofun

/-- The read-only registers stand at the read-only offsets (R67). -/
theorem readOnly_of_targetAt {n : Nat} {g : Target} (h : targetAt n = some g) :
    g.readOnly = true ↔ readOnlyOffset (4 * n) = true := by
  rw [readOnlyOffset_word]
  rcases targetAt_eq_some h with ⟨hn, rfl⟩ | ⟨hn, rfl⟩ | ⟨hn, rfl⟩ | ⟨hn, rfl⟩ | ⟨hn, rfl⟩ | ⟨hn, rfl⟩ | ⟨hn, rfl⟩ |
    ⟨hn, rfl⟩ | ⟨hn, rfl⟩ | ⟨hn, rfl⟩ | ⟨hn, rfl⟩
  pick_goal 9
  · simp only [(obsTarget_readOnly _).1, true_iff]; omega
  all_goals simp [Target.readOnly]; omega

/-- The schedule words stand at the word numbers 64 to 127 (R37). -/
theorem schedWord_of_targetAt {n j : Nat} (h : targetAt n = some (.schedWord j)) : n = 64 + j ∧ j < 64 := by
  simp only [targetAt, ite_eq_some, Option.some.injEq, reduceCtorEq, and_false, false_or, (obsTarget_readOnly _).2,
    Target.schedWord.injEq, or_false] at h
  omega

/-! The address decode, by offset. -/

theorem target_of_aligned {off : BitVec 12} (h : off.toNat % 4 = 0) :
    ∃ n < 1024, off.toNat = 4 * n ∧ target off = targetAt n :=
  have hn : off.toNat = 4 * (off.toNat / 4) := by omega
  ⟨off.toNat / 4, by omega, hn, target_of_word_number hn⟩

theorem target_of_misaligned {off : BitVec 12} (h : off.toNat % 4 ≠ 0) : target off = none := if_neg h

/-- An offset reaches no register exactly where it is misaligned or reserved (R63, R65, R66). -/
theorem target_eq_none {off : BitVec 12} :
    target off = none ↔ off.toNat % 4 ≠ 0 ∨ reservedOffset off.toNat = true := by
  by_cases h : off.toNat % 4 = 0
  · obtain ⟨n, hn, ho, ht⟩ := target_of_aligned h
    rw [ht, targetAt_eq_none, ho, reservedOffset_word hn]
    simp
  · simp [target_of_misaligned h, h]

/-- A register is reached at an aligned offset only. -/
theorem target_eq_some {off : BitVec 12} {g : Target} (h : target off = some g) :
    ∃ n, off.toNat = 4 * n ∧ targetAt n = some g := by
  by_cases ha : off.toNat % 4 = 0
  · obtain ⟨n, -, ho, ht⟩ := target_of_aligned ha
    exact ⟨n, ho, ht ▸ h⟩
  · rw [target_of_misaligned ha] at h; cases h

/-- Settles O12, range by range of word numbers. -/
theorem addressDecodeFollowsTheMap : Obligations.AddressDecodeFollowsTheMap := by
  refine fun off => ⟨?_, fun g hg => ?_⟩
  · rw [mapped, ← Option.ne_none_iff_isSome, Ne, target_eq_none]
    simp
  · obtain ⟨n, ho, ht⟩ := target_eq_some hg
    rw [ho]; exact readOnly_of_targetAt ht

/-! Reads. -/

/-- A read of a register outside the W window shows its value and changes nothing (R68). -/
theorem access_regRead {off : BitVec 12} {g : Target} (h : target off = some g) (hg : ∀ j, g ≠ .schedWord j) (d : Word)
    (s : State) :
    access { we := false, off := off, size := .word, wdata := d } s = .next (s.setReply (.rdata (regRead s g))) := by
  rw [access_read h]
  cases g with
  | schedWord j => exact absurd rfl (hg j)
  | _ => rfl

/-- Bit 8 of ERR is MULTI (R32). -/
theorem errReg_word (e : ErrReg) :
    e.word = e.code.bits.setWidth 32 ||| (if e.multi then 0x100#32 else 0#32) := by
  rw [ErrReg.word]; cases e.multi <;> rfl

/-- Settles O13, by the register that each offset reaches. -/
theorem registerReadsGiveTheirValues : Obligations.RegisterReadsGiveTheirValues := by
  intro s d
  have hread (off : BitVec 12) (g : Target) (h : target off = some g) (hg : ∀ j, g ≠ .schedWord j) :=
    access_regRead h hg d s
  refine ⟨hread _ .id rfl nofun, hread _ .cmd rfl nofun, hread _ .status rfl nofun, ?_, hread _ .wloaded rfl nofun,
    hread _ .blkcnt rfl nofun, hread _ (.workVar 0) rfl nofun, hread _ (.workVar 1) rfl nofun,
    hread _ (.workVar 2) rfl nofun, hread _ (.workVar 3) rfl nofun, hread _ (.workVar 4) rfl nofun,
    hread _ (.workVar 5) rfl nofun, hread _ (.workVar 6) rfl nofun, hread _ (.workVar 7) rfl nofun, fun k => ?_,
    hread _ .bsig0 rfl nofun, hread _ .bsig1 rfl nofun, hread _ .ch rfl nofun, hread _ .maj rfl nofun,
    hread _ .t1 rfl nofun, hread _ .t2 rfl nofun, hread _ .ssig0 rfl nofun, hread _ .ssig1 rfl nofun,
    fun i hi => hread _ (.kWord i) (target_kWord hi) nofun⟩
  · rw [← errReg_word]; exact hread _ .err rfl nofun
  · exact hashAt_of_lt s k.isLt ▸ hread _ (.hash k) (target_hash k.isLt) nofun

/-- A transaction reaches no register exactly for one of E_ADDR's three causes (R64 to R66). -/
theorem reaches_eq_none {x : Access} :
    x.reaches = none ↔ x.off.toNat % 4 ≠ 0 ∨ x.size ≠ .word ∨ reservedOffset x.off.toNat = true := by
  rw [or_left_comm, ← target_eq_none]
  cases hs : x.size <;> simp [Access.reaches, hs]

/-- A transaction that reaches schedule word j stands at its offset in the W window (R37). -/
theorem offset_of_reaches_schedWord {x : Access} {j : Nat} (h : x.reaches = some (.schedWord j)) :
    x.off.toNat = 0x100 + 4 * j ∧ j < 64 := by
  have ht : target x.off = some (.schedWord j) := by
    cases hs : x.size with
    | word => simpa [Access.reaches, hs] using h
    | _ => simp [Access.reaches, hs] at h
  obtain ⟨n, ho, hn⟩ := target_eq_some ht
  have := schedWord_of_targetAt hn
  omega

/-- Settles O17: a read either reaches nothing, or a schedule word, valid or not, or another register. -/
theorem readsChangeAtMostErr : Obligations.ReadsChangeAtMostErr := by
  intro x s hwe
  cases hr : x.reaches with
  | none => exact ⟨_, 0#32, access_unmapped hr s, .inr (.inl ⟨reaches_eq_none.mp hr, rfl, by simp [hwe]⟩)⟩
  | some g =>
    have ha : access x s = .next (answerRead (readTarget g s)) := by simp [access, hr, hwe]
    cases g with
    | schedWord j =>
      obtain ⟨ho, hj⟩ := offset_of_reaches_schedWord hr
      by_cases hv : s.valid j = true
      · exact ⟨_, s.wordAt j, ha, .inl (by simp [readTarget, wordRead, hv, answerRead])⟩
      · refine ⟨_, 0#32, ha, .inr (.inr ⟨by omega, by omega, ?_, rfl, by simp [readTarget, wordRead, hv, answerRead]⟩)⟩
        rw [show (x.off.toNat - 0x100) / 4 = j by omega]
        simpa using hv
    | _ => exact ⟨_, _, ha, .inl rfl⟩

end Sys2Proof.Proofs
end

section
/-! PROOFS. The host's padding (spec/20_memory.md R73 to R75). -/

namespace Sys2Proof.Proofs

open Sys2Proof.Machine

/-! The pieces of the padded stream. -/

theorem length_lengthField (n : Nat) : (lengthField n).length = 64 := by simp [lengthField]

theorem length_padBits (m : List Bool) : (padBits m).length = m.length + 65 + zeroBits m.length := by
  simp [padBits, length_lengthField]; omega

/-- The 0 bits are fewer than 512 and fill up the last block (R73). -/
theorem zeroBits_fills (n : Nat) : zeroBits n < 512 ∧ (n + 65 + zeroBits n) % 512 = 0 := by
  unfold zeroBits; omega

/-- The bits between the 1 bit and the length field are 0 (R73). -/
theorem padBits_zero {m : List Bool} {i : Nat} (hi : m.length < i) (hi' : i + 64 < (padBits m).length) :
    (padBits m)[i]? = some false := by
  rw [length_padBits] at hi'
  obtain ⟨k, rfl⟩ : ∃ k, i = m.length + (k + 1) := ⟨i - m.length - 1, by omega⟩
  have hk : k < zeroBits m.length := by omega
  rw [padBits, List.getElem?_append_right (Nat.le_add_right _ _), Nat.add_sub_cancel_left, List.getElem?_cons_succ,
    List.getElem?_append_left (by simpa using hk), List.getElem?_replicate_of_lt hk]

/-- The last 64 bits are the length field (R73). -/
theorem drop_padBits (m : List Bool) : (padBits m).drop ((padBits m).length - 64) = lengthField m.length := by
  have h : padBits m = (m ++ (true :: List.replicate (zeroBits m.length) false)) ++ lengthField m.length := by
    simp [padBits]
  rw [h, List.length_append, length_lengthField, Nat.add_sub_cancel, List.drop_left]

/-- The number that the first k bits of a word make up, most significant first. -/
theorem foldl_getMsbD {w : Nat} (x : BitVec w) {k : Nat} (hk : k ≤ w) :
    ((List.range k).map x.getMsbD).foldl (fun n b => 2 * n + b.toNat) 0 = x.toNat / 2 ^ (w - k) := by
  induction k with
  | zero => simp [Nat.div_eq_of_lt x.isLt]
  | succ k ih =>
    rw [List.range_succ, List.map_append, List.foldl_append, ih (by omega)]
    obtain ⟨d, hd⟩ : ∃ d, w - k = d + 1 := ⟨w - k - 1, by omega⟩
    have hbit : x.getMsbD k = x.toNat.testBit d := by
      rw [BitVec.getMsbD, BitVec.getLsbD, show w - 1 - k = d by omega]; simp; omega
    rw [hd, show w - (k + 1) = d by omega, Nat.pow_succ, ← Nat.div_div_eq_div_mul, List.map_singleton, List.foldl_cons,
      List.foldl_nil, hbit, Nat.toNat_testBit]
    omega

/-- The length field is the length, for a message of fewer than 2^64 bits (R73, log entry 6). -/
theorem foldl_lengthField {n : Nat} (hn : n < 2 ^ 64) :
    (lengthField n).foldl (fun n b => 2 * n + b.toNat) 0 = n := by
  rw [lengthField, foldl_getMsbD _ (Nat.le_refl 64), BitVec.toNat_ofNat, Nat.mod_eq_of_lt hn, Nat.sub_self]
  exact Nat.div_one n

/-! Messages of bytes. -/

theorem length_messageBits (m : List Byte) : (messageBits m).length = 8 * m.length := by
  simp [messageBits, List.length_flatMap, byteBits, Nat.mul_comm]

theorem length_blocksOf (l : List Bool) : (blocksOf l).length = l.length / 512 := by simp [blocksOf]

/-- A message of at most 55 bytes is padded to one block. -/
theorem length_padBits_short {m : List Byte} (hm : m.length < 56) : (padBits (messageBits m)).length = 512 := by
  rw [length_padBits, length_messageBits, zeroBits]; omega

/-- Settles O53: the pieces of the padded stream, and the empty message by evaluation of its one block. -/
theorem paddingReachesAWholeBlock : Obligations.PaddingReachesAWholeBlock := by
  refine ⟨fun m => ?_, fun m hm => ?_, by decide +kernel⟩
  · obtain ⟨hlt, hmod⟩ := zeroBits_fills m.length
    have hlen := length_padBits m
    refine ⟨hlen ▸ hmod, by omega, by omega, List.take_left, by simp [padBits], fun i => padBits_zero, fun hm => ?_⟩
    rw [drop_padBits, foldl_lengthField hm]
  · rw [length_blocksOf, length_padBits_short hm]

end Sys2Proof.Proofs
end

section
/-! PROOFS. Several instances (spec/20_memory.md R62, R83, spec/60_exceptions.md R239): windows of distinct pages do not
overlap, and each of the instances is changed only by what is meant for it. -/

namespace Sys2Proof.Proofs

open Sys2Proof.Machine

/-- An address in the window of one page is in no other page's window (R62). -/
theorem windowOffset_of_page {page off : Nat} (p : Nat) (ho : off < 4096) :
    windowOffset (Config.windowBytes * p) (Config.windowBytes * page + off) =
      if p = page then some (BitVec.ofNat 12 off) else none := by
  unfold windowOffset Config.windowBytes
  by_cases hp : p = page
  · subst hp
    rw [if_pos ⟨by omega, by omega⟩, if_pos rfl, Nat.add_sub_cancel_left]
  · rw [if_neg (by omega), if_neg hp]

/-- Among distinct pages, an address in the window of page i is routed to it. -/
theorem routeFrom_of_page {pages : List Nat} (hn : pages.Nodup) {i page off : Nat} (k : Nat) (hi : pages[i]? = some page)
    (ho : off < 4096) :
    routeFrom pages k (Config.windowBytes * page + off) = some (k + i, BitVec.ofNat 12 off) := by
  induction pages generalizing i k with
  | nil => cases hi
  | cons p ps ih =>
    obtain ⟨hp, hps⟩ := List.nodup_cons.mp hn
    rw [routeFrom, windowOffset_of_page p ho]
    cases i with
    | zero =>
      obtain rfl : p = page := by simpa using hi
      simp
    | succ i =>
      rw [List.getElem?_cons_succ] at hi
      have hne : p ≠ page := fun e => hp (e ▸ List.mem_of_getElem? hi)
      rw [if_neg hne]
      exact (ih hps (k + 1) hi).trans (by rw [Nat.add_right_comm, Nat.add_assoc])

/-- A transaction leaves the instances that it does not reach as they are (R83). -/
theorem present_other {P : Config.Platform} {addr : Nat} {we : Bool} {size : AccessSize} {v : Word} {p : List State} {j : Nat}
    (h : ∀ off, route P addr ≠ some (j, off)) : (present P addr we size v p)[j]? = p[j]? := by
  unfold present
  split
  · rfl
  · rename_i k off hr
    have hkj : k ≠ j := by rintro rfl; exact h off hr
    split
    · rfl
    · exact List.getElem?_set_ne hkj

/-- A step of one of the instances leaves the others as they are (R83). -/
theorem stepInstance_other {k j : Nat} {p q : List State} (h : stepInstance k p = .next q) (hj : j ≠ k) : q[j]? = p[j]? := by
  unfold stepInstance at h
  split at h
  · obtain rfl := Host.Outcome.next.inj h; rfl
  · split at h
    · obtain rfl := Host.Outcome.next.inj h; exact List.getElem?_set_ne hj.symm
    · cases h
    · cases h

/-- Settles O54, by the disjoint windows and by what `present` and `stepInstance` set. -/
theorem instancesShareNothing : Obligations.InstancesShareNothing := by
  refine ⟨fun P k base off hwf hbase ho => ?_, fun _ _ _ _ _ _ _ => present_other, fun _ _ _ _ => stepInstance_other⟩
  obtain ⟨page, hpage, rfl⟩ : ∃ page, P.pages[k]? = some page ∧ Config.windowBytes * page = base := by
    simpa [Config.Platform.shaBase] using hbase
  have hnodup : P.pages.Nodup := by simp [Config.Platform.wf] at hwf; exact hwf.2
  rw [route, routeFrom_of_page hnodup 0 hpage ho, Nat.zero_add]

end Sys2Proof.Proofs
end

section
/-! PROOFS. The decoder of command words (spec/30_encoding.md R102, R106): a command has one word, and which words they are. -/

namespace Sys2Proof.Proofs

/-- The opcode map assigns the opcodes up to 6 and no others (R102). -/
theorem exists_commandOf_iff {opc : BitVec 8} : (∃ i, commandOf opc = some i) ↔ opc.toNat ≤ 0x06 := by
  constructor
  · rintro ⟨i, h⟩
    rw [opcodeOf_of_commandOf h]
    cases i <;> decide
  · intro h
    unfold commandOf
    interval_cases opc.toNat <;> exact ⟨_, rfl⟩

/-- A word decodes by its two fields: RSVD must be 0, and OPC names the command (R100, R106). -/
theorem decode_eq_ok_iff {v : Word} {i : Instr} :
    decode v = .ok i ↔ (fieldsOf v).rsvd = 0#24 ∧ commandOf (fieldsOf v).opc = some i := by
  by_cases hr : (fieldsOf v).rsvd = 0#24
  · cases hc : commandOf (fieldsOf v).opc <;> simp [decode, hr, hc]
  · simp [decode, hr]

/-- Each command has exactly one word (R102). -/
theorem decode_eq_ok_iff_encode {v : Word} {i : Instr} : decode v = .ok i ↔ v = encode i :=
  ⟨eq_encode_of_decode, fun h => h ▸ decode_encode i⟩

/-- Settles O2: by the fields of the word, and by the one word of each command. -/
theorem decodeAcceptsExactlyTheOpcodeMap : Obligations.DecodeAcceptsExactlyTheOpcodeMap := by
  refine ⟨fun v => ?_, fun _ => decode_eq_ok_iff_encode, fun _ => decode_eq_ok_iff_encode,
    fun _ => decode_eq_ok_iff_encode, fun _ => decode_eq_ok_iff_encode, fun _ => decode_eq_ok_iff_encode,
    fun _ => decode_eq_ok_iff_encode, fun _ => decode_eq_ok_iff_encode⟩
  simp only [decode_eq_ok_iff, exists_and_left, exists_commandOf_iff]
  exact Iff.rfl

end Sys2Proof.Proofs
end

section
/-! PROOFS. WAITIDLE (spec/30_encoding.md R108): what a poll of STATUS sees after some turns of the core, and how many turns a
RUN still needs after each of them (spec/43_control.md R194). -/

namespace Sys2Proof.Proofs

open Sys2Proof.Machine

/-! The micro-steps that a RUN has left, after each micro-step. -/

theorem microStepsLeft_of_sched {s : State} (hp : s.phase = .sched) :
    s.microStepsLeft = (64 - s.sIdx.toNat) + 64 + 1 := by
  simp [State.microStepsLeft, hp]

theorem microStepsLeft_of_compress {s : State} (hp : s.phase = .compress) :
    s.microStepsLeft = (64 - s.tIdx.toNat) + 1 := by
  simp [State.microStepsLeft, hp]

theorem microStepsLeft_of_roundsDone {s : State} (hp : s.phase = .roundsDone) : s.microStepsLeft = 1 := by
  simp [State.microStepsLeft, hp]

theorem microStepsLeft_pos {s : State} (hp : s.phase ≠ .load) : 0 < s.microStepsLeft := by
  cases h : s.phase with
  | load => exact absurd h hp
  | sched => rw [microStepsLeft_of_sched h]; omega
  | compress => rw [microStepsLeft_of_compress h]; omega
  | roundsDone => rw [microStepsLeft_of_roundsDone h]; omega

theorem schedNext_microStepsLeft {u : State} (hp : u.phase = .sched) (ho : u.sequenceOk = true) :
    (schedNext u).microStepsLeft = u.microStepsLeft - 1 := by
  obtain ⟨-, h63, ht, -⟩ := (sequenceOk_of_sched hp).mp ho
  have hphase := schedNext_phase hp h63
  have hs : (schedNext u).sIdx.toNat = u.sIdx.toNat + 1 := toNat_add_one h63
  have ht' : (schedNext u).tIdx.toNat = 0 := congrArg BitVec.toNat ht
  rw [microStepsLeft_of_sched hp]
  by_cases hi : u.sIdx.toNat = 63
  · rw [if_pos hi] at hphase
    rw [microStepsLeft_of_compress hphase]
    omega
  · rw [if_neg hi] at hphase
    rw [microStepsLeft_of_sched hphase]
    omega

theorem roundNext_microStepsLeft {u : State} (hp : u.phase = .compress) (ho : u.sequenceOk = true) :
    (roundNext u).microStepsLeft = u.microStepsLeft - 1 := by
  obtain ⟨-, h63, -⟩ := (sequenceOk_of_compress hp).mp ho
  have hphase := roundNext_phase hp h63
  have ht : (roundNext u).tIdx.toNat = u.tIdx.toNat + 1 := toNat_add_one h63
  rw [microStepsLeft_of_compress hp]
  by_cases hi : u.tIdx.toNat = 63
  · rw [if_pos hi] at hphase
    rw [microStepsLeft_of_roundsDone hphase]
    omega
  · rw [if_neg hi] at hphase
    rw [microStepsLeft_of_compress hphase]
    omega

/-! A RUN under turns of the core. -/

/-- The turns of the core until BUSY is 0. -/
def turnsLeft (s : State) : Nat := if s.busy then s.microStepsLeft else 0

/-- A RUN that the core works on or has finished: R35 holds, ERR is `e`, and with BUSY = 0 PHASE is LOAD. -/
structure Running (e : ErrReg) (s : State) : Prop where
  inv  : s.Inv
  err  : s.err = e
  load : s.busy = false → s.phase = .load

theorem turnsLeft_of_busy {s : State} (hb : s.busy = true) : turnsLeft s = s.microStepsLeft := by simp [turnsLeft, hb]

theorem turnsLeft_of_idle {s : State} (hb : s.busy = false) : turnsLeft s = 0 := by simp [turnsLeft, hb]

theorem turnsLeft_pos {s : State} (hi : s.Inv) (hb : s.busy = true) : 0 < turnsLeft s := by
  rw [turnsLeft_of_busy hb]
  exact microStepsLeft_pos ((inv_iff.mp hi).2 hb)

/-- A turn of the core takes one of the turns that are left, if any. -/
theorem coreTurn_turnsLeft {u t : State} (h : coreTurn u = .next t) : turnsLeft t = turnsLeft u - 1 := by
  cases coreTurn_change h with
  | same _ _ hcore => rw [turnsLeft_of_idle (hcore rfl)]
  | recorded _ hc => exact absurd rfl hc.1
  | coreScheduled hb hp ho =>
    rw [turnsLeft_of_busy hb, turnsLeft_of_busy (s := schedNext u) hb, schedNext_microStepsLeft hp ho]
  | coreRounded hb hp ho =>
    rw [turnsLeft_of_busy hb, turnsLeft_of_busy (s := roundNext u) hb, roundNext_microStepsLeft hp ho]
  | coreFinaled hb hp ho =>
    rw [turnsLeft_of_busy hb, turnsLeft_of_idle rfl, microStepsLeft_of_roundsDone hp]

theorem running_of_busy {e : ErrReg} {s : State} (hi : s.Inv) (he : s.err = e) (hb : s.busy = true) : Running e s :=
  ⟨hi, he, by simp [hb]⟩

/-- No turn of the core records an error, and BUSY falls only in the final step, which leaves LOAD (R194). -/
theorem coreTurn_running {e : ErrReg} {u t : State} (h : coreTurn u = .next t) (hr : Running e u) : Running e t := by
  have hc := coreTurn_change h
  have hi := change_keeps_inv hc hr.inv
  cases hc with
  | same => exact hr
  | recorded _ hc => exact absurd rfl hc.1
  | coreScheduled hb => exact running_of_busy hi hr.err hb
  | coreRounded hb => exact running_of_busy hi hr.err hb
  | coreFinaled => exact ⟨hi, hr.err, fun _ => rfl⟩

/-! One poll. -/

/-- One poll of WAITIDLE: `turns` turns of the core, then the read of STATUS. -/
def poll (turns : Nat) (s : State) : Result :=
  runSteps (turns + 1) (s.setInputs (List.replicate turns .core ++ [rd 0x008#12]))

/-- A poll before which the core has no turn shows STATUS and changes nothing. -/
theorem poll_zero (s : State) : poll 0 s = .next ((s.setInputs []).setReply (.rdata s.status)) := by
  have hs : step (s.setInputs [rd 0x008#12]) = .next ((s.setInputs []).setReply (.rdata s.status)) :=
    (step_access rfl).trans (access_regRead (g := .status) rfl nofun _ _)
  simp only [poll, List.replicate_zero, List.nil_append, runSteps, hs]

/-- A turn of the core, and then the rest of the poll. -/
theorem poll_succ_eq_next {k : Nat} {s t : State} :
    poll (k + 1) s = .next t ↔ ∃ u, coreTurn ((s.setInputs []).setReply .quiet) = .next u ∧ poll k u = .next t := by
  have hs (l : List Event) : step (s.setInputs (.core :: l)) =
      thenDo (coreTurn ((s.setInputs []).setReply .quiet)) (·.setInputs l) :=
    coreTurn_ignoresInputs ((s.setInputs []).setReply .quiet) l
  rw [poll, List.replicate_succ, List.cons_append, runSteps, hs]
  cases coreTurn ((s.setInputs []).setReply .quiet) <;> simp [thenDo, poll]

/-- The host sees bit 3 of STATUS, which is the BUSY of the state that the poll leaves (R33). -/
theorem sawBusy_of_poll {k : Nat} {s t : State} (h : poll k s = .next t) : t.reply.sawBusy = t.busy := by
  induction k generalizing s with
  | zero =>
    obtain rfl := Host.Outcome.next.inj ((poll_zero s).symm.trans h)
    exact (getLsbD_status s (by decide)).trans (by simp [statusBit])
  | succ k ih =>
    obtain ⟨u, -, hu⟩ := poll_succ_eq_next.mp h
    exact ih hu

/-- A poll goes on while the core works on a RUN, and its turns are taken from those that are left. -/
theorem poll_running {e : ErrReg} (k : Nat) {s : State} (hr : Running e s) :
    ∃ t, poll k s = .next t ∧ Running e t ∧ turnsLeft t = turnsLeft s - k := by
  induction k generalizing s with
  | zero => exact ⟨_, poll_zero s, ⟨hr.inv, hr.err, hr.load⟩, rfl⟩
  | succ k ih =>
    have hr' : Running e ((s.setInputs []).setReply .quiet) := ⟨hr.inv, hr.err, hr.load⟩
    obtain ⟨u, hu⟩ := coreTurn_next hr'.inv
    obtain ⟨t, ht, hrt, hk⟩ := ih (coreTurn_running hu hr')
    have hleft : turnsLeft u = turnsLeft s - 1 := (coreTurn_turnsLeft hu :)
    exact ⟨t, poll_succ_eq_next.mpr ⟨u, hu, ht⟩, hrt, by omega⟩

/-! WAITIDLE. -/

/-- WAITIDLE by its first poll: it returns if BUSY is 0 after that, and goes on if not. -/
theorem waitIdle_cons_eq_some {k : Nat} {more : List Nat} {s t : State} :
    waitIdle (k :: more) s = some t ↔
      ∃ u, poll k s = .next u ∧ (if u.busy then waitIdle more u else some u) = some t := by
  rw [waitIdle, ← poll]
  cases hu : poll k s with
  | next u => simp [nextOf, sawBusy_of_poll hu]
  | fault => simp [nextOf]
  | refused => simp [nextOf]

theorem busy_of_waitIdle {turns : List Nat} {s t : State} (h : waitIdle turns s = some t) : t.busy = false := by
  induction turns generalizing s with
  | nil => cases h
  | cons k more ih =>
    obtain ⟨u, -, hu⟩ := waitIdle_cons_eq_some.mp h
    split at hu
    · exact ih hu
    · obtain rfl := Option.some.inj hu
      exact Bool.eq_false_of_not_eq_true ‹_›

/-- However the turns that a RUN has left are spread over the polls, WAITIDLE returns. -/
theorem waitIdle_running {e : ErrReg} {turns : List Nat} {s : State} (hr : Running e s) (hb : s.busy = true)
    (hle : turnsLeft s ≤ turns.sum) : ∃ t, waitIdle turns s = some t ∧ Running e t := by
  induction turns generalizing s with
  | nil => exact absurd hle (Nat.not_le.mpr (turnsLeft_pos hr.inv hb))
  | cons k more ih =>
    obtain ⟨u, hu, hru, hk⟩ := poll_running k hr
    rw [List.sum_cons] at hle
    by_cases hbu : u.busy = true
    · obtain ⟨t, ht, hrt⟩ := ih hru hbu (by omega)
      exact ⟨t, waitIdle_cons_eq_some.mpr ⟨u, hu, by rwa [if_pos hbu]⟩, hrt⟩
    · exact ⟨u, waitIdle_cons_eq_some.mpr ⟨u, hu, if_neg hbu⟩, hru⟩

/-- Settles O37, by induction over the polls: each returns with BUSY = 0 or leaves fewer turns to the next ones. -/
theorem waitIdleReturnsWhenTheRunIsDone : Obligations.WaitIdleReturnsWhenTheRunIsDone := by
  refine ⟨fun _ _ _ => busy_of_waitIdle, fun s turns hi hb hle => ?_⟩
  obtain ⟨t, ht, hrt⟩ := waitIdle_running (running_of_busy hi rfl hb) hb (by rwa [turnsLeft_of_busy hb])
  have hbt := busy_of_waitIdle ht
  exact ⟨t, ht, hbt, hrt.load hbt, hrt.err⟩

end Sys2Proof.Proofs
end

section
/-! PROOFS. The datapath functions bit by bit (spec/40_functions.md R120 to R128). -/

namespace Sys2Proof.Proofs

open Sys2Proof.Machine

theorem getLsbD_rotr32 (x : Word) {n i : Nat} (h0 : 0 < n) (hn : n < 32) (hi : i < 32) :
    (rotr32 x n).getLsbD i = x.getLsbD ((i + n) % 32) := by
  rw [rotr32, BitVec.getLsbD_or, BitVec.getLsbD_ushiftRight, BitVec.getLsbD_shiftLeft]
  by_cases h : i + n < 32
  · have hlow : i < 32 - n := by omega
    simp [hlow, Nat.mod_eq_of_lt h, Nat.add_comm n i]
  · have hwrap : (i + n) % 32 = i - (32 - n) := by omega
    simp [hwrap, hi, show ¬ i < 32 - n by omega, BitVec.getLsbD_of_ge x (n + i) (by omega)]

/-- Settles O6: the two shifts of `rotr32` bring in disjoint bits, the second those that wrap. -/
theorem rotateMovesEachBit : Obligations.RotateMovesEachBit := fun x _ _ => getLsbD_rotr32 x

theorem getLsbD_shr (x : Word) (n i : Nat) :
    (shr x n).getLsbD i = (decide (i + n ≤ 31) && x.getLsbD (i + n)) := by
  rw [shr, BitVec.getLsbD_ushiftRight, Nat.add_comm n i]
  by_cases h : i + n ≤ 31
  · simp [h]
  · simp [h, BitVec.getLsbD_of_ge x (i + n) (by omega)]

/-- Settles O7: `BitVec`'s shift, and no word has a bit from 32 up. -/
theorem shiftBringsInZeros : Obligations.ShiftBringsInZeros := fun x n i _ => getLsbD_shr x n i

/-- Settles O8: XOR acts bit by bit, and each operand's bit is that of a rotation or of the shift. -/
theorem sigmasXorThreeBits : Obligations.SigmasXorThreeBits := by
  intro x i hi
  have hrot {n : Nat} (h0 : 0 < n) (hn : n < 32) := getLsbD_rotr32 x h0 hn hi
  refine ⟨?small0, ?small1, ?big0, ?big1⟩
  case small0 => simp (disch := decide) only [smallSigma0, BitVec.getLsbD_xor, hrot, getLsbD_shr]
  case small1 => simp (disch := decide) only [smallSigma1, BitVec.getLsbD_xor, hrot, getLsbD_shr]
  case big0 => simp (disch := decide) only [bigSigma0, BitVec.getLsbD_xor, hrot]
  case big1 => simp (disch := decide) only [bigSigma1, BitVec.getLsbD_xor, hrot]

theorem getLsbD_ch (x y z : Word) (i : Nat) :
    (ch x y z).getLsbD i = (if x.getLsbD i then y.getLsbD i else z.getLsbD i) := by
  rw [ch, BitVec.getLsbD_xor, BitVec.getLsbD_and, BitVec.getLsbD_and, BitVec.getLsbD_not]
  by_cases hi : i < 32
  · cases x.getLsbD i <;> simp [hi]
  · simp [BitVec.getLsbD_of_ge _ i (Nat.le_of_not_lt hi)]

theorem getLsbD_maj (x y z : Word) (i : Nat) :
    (maj x y z).getLsbD i =
      decide (2 ≤ (x.getLsbD i).toNat + (y.getLsbD i).toNat + (z.getLsbD i).toNat) := by
  simp only [maj, BitVec.getLsbD_xor, BitVec.getLsbD_and]
  generalize x.getLsbD i = a, y.getLsbD i = b, z.getLsbD i = c
  decide +revert

/-- Settles O9, by the cases of the three bits at position i. -/
theorem choiceAndMajorityOfBits : Obligations.ChoiceAndMajorityOfBits :=
  fun x y z i => ⟨getLsbD_ch x y z i, getLsbD_maj x y z i⟩

end Sys2Proof.Proofs
end

section
/-! PROOFS. The ROMs against integer roots of primes (spec/40_functions.md R130, R131; log entry 7). -/

namespace Sys2Proof.Proofs

open Sys2Proof.Machine

/-! The roots: a ROM word with its integer part q in front is the whole root, scaled by 2^32 and rounded down. -/

/-- A word that an integer part q completes to the root is that root's fractional part. -/
theorem exists_root_of_integerPart {n a : Nat} {w : Word}
    (h : ∃ q < 7, (q * 2 ^ 32 + w.toNat) ^ n ≤ a ∧ a < (q * 2 ^ 32 + w.toNat + 1) ^ n) :
    ∃ r, r ^ n ≤ a ∧ a < (r + 1) ^ n ∧ w.toNat = r % 2 ^ 32 := by
  obtain ⟨q, -, hle, hlt⟩ := h
  exact ⟨_, hle, hlt, (Nat.mul_add_mod_of_lt w.isLt).symm⟩

/-- K word by K word; the cube root of 311, the last prime, is below 7. -/
theorem kConst_integerPart : ∀ i < 64, ∃ q < 7,
    (q * 2 ^ 32 + (kConst i).toNat) ^ 3 ≤ firstPrimes.getD i 0 * 2 ^ 96 ∧
    firstPrimes.getD i 0 * 2 ^ 96 < (q * 2 ^ 32 + (kConst i).toNat + 1) ^ 3 := by
  decide

theorem ivRom_integerPart : ∀ k < 8, ∃ q < 7,
    (q * 2 ^ 32 + (ivRom[k]?.getD 0).toNat) ^ 2 ≤ firstPrimes.getD k 0 * 2 ^ 64 ∧
    firstPrimes.getD k 0 * 2 ^ 64 < (q * 2 ^ 32 + (ivRom[k]?.getD 0).toNat + 1) ^ 2 := by
  decide

/-! The primes: below 18 * 18, trial division by 2 to 17 finds them. -/

/-- No m from 2 to 17 with m * m <= p divides p. -/
def passesTrialDivision (p : Nat) : Bool :=
  decide (2 ≤ p) && (List.range' 2 16).all fun m => decide (m * m ≤ p → ¬m ∣ p)

theorem passesTrialDivision_iff_prime {p : Nat} (hp : p < 18 * 18) : passesTrialDivision p = true ↔ p.Prime := by
  have hsmall {m : Nat} (hm : m * m ≤ p) : m < 18 := Nat.mul_self_lt_mul_self_iff.mp (hm.trans_lt hp)
  simp only [passesTrialDivision, Bool.and_eq_true, decide_eq_true_eq, List.all_eq_true, List.mem_range'_1,
    Nat.prime_def_le_sqrt, Nat.le_sqrt]
  exact and_congr_right fun _ =>
    ⟨fun h m h2 hm => h m ⟨h2, hsmall hm⟩ hm, fun h m hm => h m hm.1⟩

theorem firstPrimes_eq_filter : firstPrimes = (List.range 312).filter passesTrialDivision := by
  decide

theorem mem_firstPrimes_iff_prime {p : Nat} (hp : p < 312) : p ∈ firstPrimes ↔ p.Prime := by
  rw [firstPrimes_eq_filter, List.mem_filter, List.mem_range, passesTrialDivision_iff_prime (by omega)]
  exact and_iff_right hp

/-- Settles O10: the integer part of each root is found by evaluation, the list of primes by trial division. -/
theorem romsHoldFractionsOfPrimeRoots : Obligations.RomsHoldFractionsOfPrimeRoots :=
  ⟨fun i hi => exists_root_of_integerPart (kConst_integerPart i hi),
    fun k hk => exists_root_of_integerPart (ivRom_integerPart k hk), rfl, fun _ => mem_firstPrimes_iff_prime⟩

end Sys2Proof.Proofs
end

section
/-! PROOFS. The schedule memory along the steps (spec/41_message_scheduler.md R154 to R156): what a schedule step writes and
leaves, and from it the recurrence and the stability of the valid words, by cases on `Change`. -/

namespace Sys2Proof.Proofs

open Sys2Proof.Machine

/-! The schedule step (R154). -/

theorem schedNext_wordAt_new {u : State} (hi : u.sIdx.toNat ≤ 63) :
    (schedNext u).wordAt u.sIdx.toNat = schedWordOf u.schedOperands :=
  wordAt_setWord_same (u.setSigmas _ _) (by omega) _

theorem schedNext_wordAt_other {u : State} {j : Nat} (hj : j ≠ u.sIdx.toNat) : (schedNext u).wordAt j = u.wordAt j :=
  wordAt_setWord_other (u.setSigmas _ _) hj.symm _

theorem schedNext_sIdx {u : State} (hi : u.sIdx.toNat ≤ 63) : (schedNext u).sIdx.toNat = u.sIdx.toNat + 1 :=
  toNat_add_one hi

/-- In SCHED the core's micro-step is the schedule step (R194). -/
theorem coreStep_of_sched {s : State} (hp : s.phase = .sched) (ho : s.sequenceOk = true) :
    coreStep s = .next (schedNext s) := by
  simp only [coreStep, hp, schedStep, whenSequenceOk_next ho]

/-- Settles O27: either agent makes the schedule step, which writes one word. -/
theorem scheduleStepComputesOneWord : Obligations.ScheduleStepComputesOneWord := by
  intro s hp h16 h63 ht hw i
  have ho : s.sequenceOk = true := (sequenceOk_of_sched hp).mpr ⟨h16, h63, ht, hw⟩
  exact ⟨schedNext s, fun hb => inPhase_next hb hp ho, fun _ => coreStep_of_sched hp ho, rfl, rfl,
    schedNext_wordAt_new h63, schedNext_sIdx h63, schedNext_phase hp h63, fun _ hj => schedNext_wordAt_other hj,
    rfl, rfl, rfl, rfl, rfl, rfl, rfl, rfl, rfl, rfl⟩

/-! The recurrence (R155). -/

theorem filled_of_load {s : State} (hp : s.phase = .load) : s.filled = 0 := if_pos hp

theorem filled_of_ne_load {s : State} (hp : s.phase ≠ .load) : s.filled = s.sIdx.toNat := if_neg hp

/-- Until a schedule word is computed there is nothing to show. -/
theorem recurrenceInv_of_filled_le {s : State} (h : s.filled ≤ 16) : s.RecurrenceInv :=
  fun _ h16 _ hlt => absurd h16 (by omega)

theorem recurrenceInv_of_load {s : State} (hp : s.phase = .load) : s.RecurrenceInv :=
  recurrenceInv_of_filled_le (by rw [filled_of_load hp]; omega)

/-- The recurrence speaks of the memory and of how far it is filled, and of nothing else. -/
theorem recurrenceInv_congr {s t : State} (hw : t.w = s.w) (hf : t.filled = s.filled) (h : s.RecurrenceInv) :
    t.RecurrenceInv := by
  intro i h16 h63 hlt
  simp only [wordAt_eq_of_w hw]
  exact h i h16 h63 (hf ▸ hlt)

theorem seedStep_recurrence (u : State) : (seedStep u).RecurrenceInv :=
  recurrenceInv_of_filled_le (by rw [filled_of_ne_load (by simp [seedStep])]; simp [seedStep])

theorem roundNext_keeps_recurrence {u : State} (hp : u.phase = .compress) (ho : u.sequenceOk = true)
    (h : u.RecurrenceInv) : (roundNext u).RecurrenceInv := by
  refine recurrenceInv_congr (s := u) rfl ?_ h
  rw [filled_of_ne_load (roundNext_inProgress hp ho).2, filled_of_ne_load (by simp [hp])]
  rfl

/-- The new word is the recurrence's, and the operands of every word up to it lie below the place it is written to. -/
theorem schedNext_keeps_recurrence {u : State} (hp : u.phase = .sched) (ho : u.sequenceOk = true)
    (h : u.RecurrenceInv) : (schedNext u).RecurrenceInv := by
  obtain ⟨-, h63, -, -⟩ := (sequenceOk_of_sched hp).mp ho
  intro i hi16 hi63 hlt
  rw [filled_of_ne_load (schedNext_inProgress hp ho).2, schedNext_sIdx h63] at hlt
  have hoperand {d : Nat} (h0 : 0 < d) : (schedNext u).wordAt (i - d) = u.wordAt (i - d) :=
    schedNext_wordAt_other (by omega)
  rw [hoperand (d := 2) (by omega), hoperand (d := 7) (by omega), hoperand (d := 15) (by omega),
    hoperand (d := 16) (by omega)]
  obtain hold | rfl := Nat.lt_succ_iff_lt_or_eq.mp hlt
  · rw [schedNext_wordAt_other hold.ne]
    exact h i hi16 hi63 (by rwa [filled_of_ne_load (by simp [hp])])
  · exact schedNext_wordAt_new h63

/-- Every change that a step can make keeps the recurrence: in a block in progress only the schedule step writes a word. -/
theorem change_keeps_recurrence {c : Cause} {u t : State} (h : Change u c t) (hr : u.RecurrenceInv) : t.RecurrenceInv := by
  cases h with
  | same => exact hr
  | recorded => exact hr
  | errCleared => exact hr
  | ranOn => exact hr
  | loaded j v hj hb hp => exact recurrenceInv_of_load hp
  | inited => exact recurrenceInv_of_load rfl
  | wasReset => exact recurrenceInv_of_load rfl
  | started => exact seedStep_recurrence u
  | ranFromLoad => exact seedStep_recurrence u
  | scheduled hb hp ho => exact schedNext_keeps_recurrence hp ho hr
  | coreScheduled hb hp ho => exact schedNext_keeps_recurrence hp ho hr
  | rounded hb hp ho => exact roundNext_keeps_recurrence hp ho hr
  | coreRounded hb hp ho => exact roundNext_keeps_recurrence hp ho hr
  | finaled => exact recurrenceInv_of_load rfl
  | coreFinaled => exact recurrenceInv_of_load rfl

/-- Settles O42: no word is computed at reset, and every change that a step can make keeps the recurrence. -/
theorem stepKeepsScheduleRecurrence : Obligations.StepKeepsScheduleRecurrence := by
  refine ⟨recurrenceInv_of_load rfl, fun s s' hr h => ?_⟩
  obtain ⟨rest, r, c, -, hc⟩ := step_change h
  exact change_keeps_recurrence hc hr

/-! Stability (R156). -/

/-- A schedule step writes past every valid word, and leaves it valid. -/
theorem schedNext_keeps_valid {u : State} (hp : u.phase = .sched) (ho : u.sequenceOk = true) {j : Nat}
    (hv : u.valid j = true) : (schedNext u).wordAt j = u.wordAt j ∧ (schedNext u).valid j = true := by
  obtain ⟨h16, h63, -, -⟩ := (sequenceOk_of_sched hp).mp ho
  have hp' := (schedNext_inProgress hp ho).2
  obtain ⟨hj, hl⟩ | ⟨hj, hj', -, hs⟩ := valid_iff.mp hv
  · exact ⟨schedNext_wordAt_other (by omega), valid_iff.mpr (.inl ⟨hj, hl⟩)⟩
  · exact ⟨schedNext_wordAt_other hs.ne, valid_iff.mpr (.inr ⟨hj, hj', hp', by rw [schedNext_sIdx h63]; omega⟩)⟩

/-- A round step writes no word, and stays in the block. -/
theorem roundNext_keeps_valid {u : State} (hp : u.phase = .compress) (ho : u.sequenceOk = true) {j : Nat}
    (hv : u.valid j = true) : (roundNext u).wordAt j = u.wordAt j ∧ (roundNext u).valid j = true := by
  have hp' := (roundNext_inProgress hp ho).2
  exact ⟨rfl, valid_iff.mpr ((valid_iff.mp hv).imp_right fun ⟨hj, hj', _, hs⟩ => ⟨hj, hj', hp', hs⟩)⟩

/-- A change from a block in progress that does not end it leaves the valid words as they are, and valid. -/
theorem change_keeps_valid {c : Cause} {u t : State} (h : Change u c t) (hp : u.phase ≠ .load) (hp' : t.phase ≠ .load)
    {j : Nat} (hv : u.valid j = true) : t.wordAt j = u.wordAt j ∧ t.valid j = true := by
  cases h with
  | same => exact ⟨rfl, hv⟩
  | recorded => exact ⟨rfl, hv⟩
  | errCleared => exact ⟨rfl, hv⟩
  | ranOn => exact ⟨rfl, hv⟩
  | loaded _ _ _ _ hl => exact absurd hl hp
  | started _ hl => exact absurd hl hp
  | ranFromLoad _ hl => exact absurd hl hp
  | scheduled hb hs ho => exact schedNext_keeps_valid hs ho hv
  | coreScheduled hb hs ho => exact schedNext_keeps_valid hs ho hv
  | rounded hb hc ho => exact roundNext_keeps_valid hc ho hv
  | coreRounded hb hc ho => exact roundNext_keeps_valid hc ho hv
  | inited => exact absurd rfl hp'
  | wasReset => exact absurd rfl hp'
  | finaled => exact absurd rfl hp'
  | coreFinaled => exact absurd rfl hp'

/-- In ROUNDS_DONE only INIT and reset write the schedule memory. -/
theorem change_w_of_roundsDone {c : Cause} {u t : State} (h : Change u c t) (hp : u.phase = .roundsDone)
    (hc : c ≠ .command .init ∧ c ≠ .reset) : t.w = u.w := by
  cases h with
  | inited => exact absurd rfl hc.1
  | wasReset => exact absurd rfl hc.2
  | loaded _ _ _ _ hl => cases hl.symm.trans hp
  | scheduled _ hs => cases hs.symm.trans hp
  | coreScheduled _ hs => cases hs.symm.trans hp
  | _ => rfl

/-- An event that starts no message has neither INIT nor the reset pin as its cause. -/
theorem cause_of_not_startsMessage {s : State} {c : Cause} (hc : s.hasCause c)
    (hm : s.nextEvent.startsMessage = false) : c ≠ .command .init ∧ c ≠ .reset := by
  constructor
  · rintro rfl
    rw [nextEvent_of_issues (issues_of_hasCause hc), startsMessage_cmdAccess] at hm
    cases hm
  · rintro rfl
    rw [(nextEvent_of_hasCause hc).2.1 rfl] at hm
    cases hm

/-- Neither FINAL's word nor a turn of the core starts a message. -/
theorem startsMessage_of_final_or_core {s : State} (h : s.issues 0x05000000#32 ∨ s.coreIsNext) :
    s.nextEvent.startsMessage = false := by
  obtain h | h := h
  · rw [nextEvent_of_issues h, startsMessage_cmdAccess]; rfl
  · rw [nextEvent_of_coreIsNext h, startsMessage_core]

/-- Settles O43, by cases on the change that the step makes. -/
theorem scheduleWordsAreStable : Obligations.ScheduleWordsAreStable := by
  intro s s' _ hp h
  obtain ⟨rest, r, c, hcause, hc⟩ := step_change h
  refine ⟨fun hp' _ hv => change_keeps_valid hc hp hp' hv, fun hd hlast => ?_⟩
  have hm := startsMessage_of_final_or_core hlast
  exact (change_w_of_roundsDone hc hd (cause_of_not_startsMessage hcause hm) :)

end Sys2Proof.Proofs
end

section
/-! PROOFS. The W window (spec/41_message_scheduler.md R150, R152): what a read and what a write of a schedule word does. -/

namespace Sys2Proof.Proofs

open Sys2Proof.Machine

/-! Reads (R152). -/

/-- A block is in progress in the three phases after LOAD (R27). -/
theorem ne_load_iff {p : Phase} : p ≠ .load ↔ p = .sched ∨ p = .compress ∨ p = .roundsDone := by
  cases p <;> simp

/-- R24 by the two kinds of words: the block's own, and those computed from them. -/
theorem valid_iff_ite {s : State} {j : Nat} (hj : j < 64) : s.valid j = true ↔
    if j < 16 then s.wloaded.getLsbD j = true
    else (s.phase = .sched ∨ s.phase = .compress ∨ s.phase = .roundsDone) ∧ j < s.sIdx.toNat := by
  rw [← ne_load_iff]
  by_cases h : j < 16
  · simp [State.valid, h]
  · simp [State.valid, h, Nat.le_of_lt_succ hj]

/-- Once the schedule is complete all its words are valid (R24, R35). -/
theorem valid_of_scheduleComplete {s : State} (hi : s.Inv) (hp : s.phase = .compress ∨ s.phase = .roundsDone) {j : Nat}
    (hj : j < 64) : s.valid j = true := by
  obtain ⟨-, -, hc, hd, -⟩ := hi
  obtain hp | hp := hp
  · obtain ⟨hs, -, hw⟩ := hc hp
    exact valid_of_lt_sIdx (by simp [hp]) hw (by simpa [hs]) (by simp [hs])
  · obtain ⟨hs, -, hw⟩ := hd hp
    exact valid_of_lt_sIdx (by simp [hp]) hw (by simpa [hs]) (by simp [hs])

theorem wordRead_of_valid {s : State} {j : Nat} (hv : s.valid j = true) : wordRead j s = (s, s.wordAt j) := if_pos hv

theorem wordRead_of_not_valid {s : State} {j : Nat} (hv : ¬ s.valid j = true) : wordRead j s = (s.raise .stale, 0#32) :=
  if_neg hv

/-- Settles O15: the offset reaches schedule word j, and the read is `wordRead` of it. -/
theorem scheduleReadReturnsOnlyValidWords : Obligations.ScheduleReadReturnsOnlyValidWords := by
  intro s j d hj x valid
  have hread : access x s = .next (answerRead (wordRead j s)) := access_read (target_schedWord hj) d s
  have hvalid : s.valid j = true ↔ valid := valid_iff_ite hj
  refine ⟨fun hv => ?_, fun hv => ?_, fun hi hp => hvalid.mp (valid_of_scheduleComplete hi hp hj)⟩
  · rw [hread, wordRead_of_valid (hvalid.mpr hv)]; rfl
  · rw [hread, wordRead_of_not_valid (mt hvalid.mp hv)]; rfl

/-! Writes (R150). -/

/-- W16 to W63 are read-only (R67). -/
theorem access_write_computedWord {j : Nat} (h16 : 16 ≤ j) (hj : j < 64) (v : Word) (s : State) :
    access { we := true, off := BitVec.ofNat 12 (0x100 + 4 * j), size := .word, wdata := v } s =
      .next ((s.raise .ro).setReply .ack) := by
  rw [access_write (target_schedWord hj)]
  exact if_pos (decide_eq_true h16)

/-- A write of W0 to W15 is a word load (R61). -/
theorem access_write_blockWord {j : Nat} (hj : j < 16) (v : Word) (s : State) :
    access { we := true, off := BitVec.ofNat 12 (0x100 + 4 * j), size := .word, wdata := v } s =
      .next (wordLoad j v (s.setReply .ack)) := by
  rw [access_write (target_schedWord (by omega))]
  exact if_neg (by simpa [Target.readOnly] using hj)

/-- Settles O18, by the three outcomes of a word load. -/
theorem wordLoadWritesOneWordInLoad : Obligations.WordLoadWritesOneWordInLoad := by
  refine ⟨fun s j v h16 hj => access_write_computedWord h16 hj v s, ?_⟩
  intro s j v hj x
  have hwrite : access x s = .next (wordLoad j v (s.setReply .ack)) := access_write_blockWord hj v s
  refine ⟨fun hb => ?_, fun hb hp => ?_, fun hb hp => ?_⟩
  · rw [hwrite, wordLoad_of_busy (u := s.setReply .ack) hb]; rfl
  · rw [hwrite, wordLoad_of_ne_load (u := s.setReply .ack) (by simp [hb]) hp]; rfl
  · rw [hwrite, wordLoad_of_load (u := s.setReply .ack) (by simp [hb]) hp]
    exact ⟨_, rfl, wordAt_setWord_same (s.setReply .ack) (by omega) v,
      fun _ hk => wordAt_setWord_other (s.setReply .ack) hk.symm v, fun _ hk => getLsbD_markLoaded s.wloaded hk,
      rfl, rfl, rfl, rfl, rfl, rfl, rfl, rfl, rfl, rfl, rfl, rfl⟩

end Sys2Proof.Proofs
end

section
/-! PROOFS. The commands of the round datapath (spec/42_compressor.md R170 to R175): START, and the round and the final step by
either agent. -/

namespace Sys2Proof.Proofs

open Sys2Proof.Machine

/-- In COMPRESS the core's micro-step is the round step (R194). -/
theorem coreStep_of_compress {s : State} (hp : s.phase = .compress) (ho : s.sequenceOk = true) :
    coreStep s = .next (roundNext s) := by
  simp only [coreStep, hp, roundStep, whenSequenceOk_next ho]

/-- In ROUNDS_DONE the core's micro-step is the final step, and it clears BUSY (R194). -/
theorem coreStep_of_roundsDone {s : State} (hp : s.phase = .roundsDone) (ho : s.sequenceOk = true) :
    coreStep s = .next ((finalNext s).setBusy false) := by
  simp only [coreStep, hp, finalStep, whenSequenceOk_next ho, thenDo]

theorem setBusy_of_busy_eq {s : State} {b : Bool} (hb : s.busy = b) : s.setBusy b = s := by subst hb; rfl

theorem roundNext_tIdx {u : State} (hi : u.tIdx.toNat ≤ 63) : (roundNext u).tIdx.toNat = u.tIdx.toNat + 1 :=
  toNat_add_one hi

/-- Settles O28: either agent makes the round step. -/
theorem roundStepPerformsOneRound : Obligations.RoundStepPerformsOneRound := by
  intro s hp hs h63 hw i
  have ho : s.sequenceOk = true := (sequenceOk_of_compress hp).mpr ⟨hs, h63, hw⟩
  exact ⟨roundNext s, fun hb => inPhase_next hb hp ho, fun _ => coreStep_of_compress hp ho, rfl, rfl, rfl, rfl, rfl, rfl,
    rfl, rfl, rfl, rfl, rfl, rfl, rfl, rfl, roundNext_tIdx h63, roundNext_phase hp h63,
    rfl, rfl, rfl, rfl, rfl, rfl, rfl, rfl, rfl, rfl, rfl⟩

/-- Settles O29: either agent makes the final step; FINAL runs with BUSY = 0, and the core clears it. -/
theorem finalStepAddsIntoTheHashState : Obligations.FinalStepAddsIntoTheHashState := by
  intro s hp hs ht hw
  have ho : s.sequenceOk = true := (sequenceOk_of_roundsDone hp).mpr ⟨hs, ht, hw⟩
  have hfinal (hb : s.busy = false) : exec .final s = .next ((finalNext s).setBusy false) :=
    (inPhase_next hb hp ho).trans (congrArg _ (setBusy_of_busy_eq (s := finalNext s) hb).symm)
  exact ⟨(finalNext s).setBusy false, hfinal, fun _ => coreStep_of_roundsDone hp ho, rfl,
    rfl, rfl, rfl, rfl, rfl, rfl, rfl, rfl, rfl, rfl, rfl, rfl, rfl,
    fun j _ => Bool.eq_false_of_not_eq_true (finalNext_valid s j), rfl, rfl, rfl, rfl, rfl, rfl, rfl, rfl⟩

/-- START with BUSY = 0 in LOAD, all words loaded: the seed step (R170). -/
theorem exec_start_of_loaded {s : State} (hb : s.busy = false) (hp : s.phase = .load) (hw : s.wloaded = 0xFFFF#16) :
    exec .start s = .next (seedStep s) :=
  (unlessBusy_idle hb).trans (if_neg (by simp [hp, (allLoaded_iff s).mpr hw]))

/-- Anywhere else START records E_SEQ (R170). -/
theorem exec_start_of_not_loaded {s : State} (hb : s.busy = false) (h : s.phase ≠ .load ∨ s.wloaded ≠ 0xFFFF#16) :
    exec .start s = .next (s.raise .seq) :=
  (unlessBusy_idle hb).trans (if_pos (h.imp_right fun hw => Bool.eq_false_of_not_eq_true (mt (allLoaded_iff s).mp hw)))

/-- Settles O26, by the two outcomes of START with BUSY = 0. -/
theorem startSeedsTheWorkingVariables : Obligations.StartSeedsTheWorkingVariables :=
  fun s hb => ⟨exec_start_of_not_loaded hb, fun hp hw => ⟨seedStep s, exec_start_of_loaded hb hp hw,
    rfl, rfl, rfl, rfl, rfl, rfl, rfl, rfl, rfl, rfl, rfl, rfl, rfl, rfl, rfl, rfl, rfl, rfl, rfl, rfl, rfl, rfl⟩⟩

end Sys2Proof.Proofs
end

section
/-! PROOFS. The hash state in every order of events (spec/10_state.md R22, spec/42_compressor.md R176, R178): a block in progress
holds its schedule and its rounds so far, so its final step adds what `compress` gives, and the history has that block more. -/

namespace Sys2Proof.Proofs

open Sys2Proof.Machine

/-! A block in progress. -/

/-- The working variables of a block in progress are those of its rounds so far, from HS (R171, R173). -/
def RoundsInv (s : State) : Prop :=
  s.phase ≠ .load → s.wv = roundsOf (expand s.blockInProgress) (seedVars s.hs) s.tIdx.toNat

theorem blockInProgress_eq_of_w {s t : State} (h : s.w = t.w) : s.blockInProgress = t.blockInProgress := by
  simp only [State.blockInProgress, wordAt_eq_of_w h]

theorem holdsWords_blockInProgress (s : State) : HoldsWords s s.blockInProgress.toList := by
  intro j hj
  have hj : j < 16 := by simpa using hj
  simp [State.blockInProgress, hj]

/-- By the recurrence, the words computed so far continue the block as `expand` does (R155). -/
theorem holdsWords_of_recurrence {s : State} (hr : s.RecurrenceInv) {k : Nat} (hk : 16 + k ≤ s.filled) (h48 : k ≤ 48) :
    HoldsWords s (expandBy k s.blockInProgress.toList) := by
  induction k with
  | zero => exact holdsWords_blockInProgress s
  | succ k ih =>
    have hold := ih (by omega) (by omega)
    have hl : (expandBy k s.blockInProgress.toList).length = 16 + k := by simp [length_expandBy]
    rw [expandBy_succ]
    intro j hj
    obtain hlt | rfl : j < 16 + k ∨ j = 16 + k := by simp [hl] at hj; omega
    · rw [List.getD_append _ _ _ _ (by omega), hold j (by omega)]
    · rw [hr (16 + k) (by omega) (by omega) (by omega), hold _ (by omega), hold _ (by omega), hold _ (by omega),
        hold _ (by omega), ← hl]
      simp [nextWord]

/-- In COMPRESS the word of the round step is the reference schedule's. -/
theorem roundWord_eq_expand {s : State} (hr : s.RecurrenceInv) (hp : s.phase = .compress) (ho : s.sequenceOk = true) :
    s.roundWord = (expand s.blockInProgress).getD s.tIdx.toNat 0#32 := by
  obtain ⟨hs, ht, -⟩ := (sequenceOk_of_compress hp).mp ho
  have hf : s.filled = 64 := by rw [filled_of_ne_load (by simp [hp]), hs]; rfl
  exact holdsWords_of_recurrence hr (k := 48) (by omega) (by omega) _
    (by rw [show expandBy 48 _ = expand s.blockInProgress from rfl, length_expand]; omega)

/-- In SCHED no round is done, so it does not matter that the schedule step writes a word. -/
theorem schedNext_keeps_rounds {u : State} (hp : u.phase = .sched) (ho : u.sequenceOk = true) (h : RoundsInv u) :
    RoundsInv (schedNext u) := by
  obtain ⟨-, -, ht, -⟩ := (sequenceOk_of_sched hp).mp ho
  intro _
  have hwv : u.wv = seedVars u.hs := by rw [h (by simp [hp]), ht]; rfl
  rw [show (schedNext u).tIdx = 0#7 from ht, BitVec.toNat_ofNat, Nat.zero_mod, roundsOf]
  exact hwv

theorem roundNext_keeps_rounds {u : State} (hp : u.phase = .compress) (ho : u.sequenceOk = true) (hr : u.RecurrenceInv)
    (h : RoundsInv u) : RoundsInv (roundNext u) := by
  obtain ⟨-, ht, -⟩ := (sequenceOk_of_compress hp).mp ho
  intro _
  rw [roundNext_tIdx ht, roundsOf, blockInProgress_eq_of_w (show (roundNext u).w = u.w from rfl),
    ← roundWord_eq_expand hr hp ho, show (roundNext u).hs = u.hs from rfl, ← h (by simp [hp])]
  rfl

/-- Every change that a step can make keeps a..h at the rounds so far. -/
theorem change_keeps_rounds {c : Cause} {u t : State} (h : Change u c t) (hr : u.RecurrenceInv) (hv : RoundsInv u) :
    RoundsInv t := by
  cases h with
  | same => exact hv
  | recorded => exact hv
  | errCleared => exact hv
  | ranOn => exact hv
  | loaded j v hj hb hp => exact fun hp' => absurd hp hp'
  | inited => exact fun hp => absurd rfl hp
  | wasReset => exact fun hp => absurd rfl hp
  | started => exact fun _ => rfl
  | ranFromLoad => exact fun _ => rfl
  | scheduled hb hp ho => exact schedNext_keeps_rounds hp ho hv
  | coreScheduled hb hp ho => exact schedNext_keeps_rounds hp ho hv
  | rounded hb hp ho => exact roundNext_keeps_rounds hp ho hr hv
  | coreRounded hb hp ho => exact roundNext_keeps_rounds hp ho hr hv
  | finaled => exact fun hp => absurd rfl hp
  | coreFinaled => exact fun hp => absurd rfl hp

theorem step_keeps_rounds {s s' : State} (h : step s = .next s') (hr : s.RecurrenceInv) (hv : RoundsInv s) :
    RoundsInv s' := by
  obtain ⟨rest, r, c, -, hc⟩ := step_change h
  exact change_keeps_rounds hc hr hv

/-! The chain. -/

/-- HS changes at a final step, INIT and reset only (R22). -/
theorem hs_kept {s s' : State} (h : step s = .next s') (hm : s.nextEvent.startsMessage = false)
    (hf : s.nextEvent.performs 0x05000000#32 .roundsDone s = false) : s'.hs = s.hs := by
  cases step_datapathChange h with
  | kept e => exact (hs_of_datapath e :)
  | cleared hm' => simp [hm'] at hm
  | seeded _ _ e => exact (hs_of_datapath e :)
  | scheduled _ e => exact (hs_of_datapath e :)
  | rounded _ e => exact (hs_of_datapath e :)
  | finished hf' => simp [hf'] at hf

/-- After 64 rounds the final step leaves HS as `compress` of the block in progress (R175, R178). -/
theorem addHash_eq_compress {s : State} (hp : s.phase = .roundsDone) (ho : s.sequenceOk = true) (hv : RoundsInv s) :
    addHash s.hs s.wv = compress (expand s.blockInProgress) s.hs := by
  obtain ⟨-, ht, -⟩ := (sequenceOk_of_roundsDone hp).mp ho
  rw [hv (by simp [hp]), ht]
  rfl

theorem hashBlocks_concat (l : List (Vector Word 16)) (m : Vector Word 16) :
    hashBlocks (l ++ [m]) = compress (expand m) (hashBlocks l) := by
  simp [hashBlocks]

/-- HS and BLKCNT are those of the history's finished blocks (R29, R176). -/
structure Chained (s : State) (h : History) : Prop where
  hs     : s.hs = hashBlocks h.blocks
  blkcnt : s.blkcnt = BitVec.ofNat 32 h.blocks.length

/-- One event: it starts a message, or finishes a block, or leaves the chain as it is. -/
theorem step_keeps_chained {e : Event} {s s' : State} {h : History} (hs : step (s.setInputs [e]) = .next s') (hi : s.Inv)
    (hv : RoundsInv s) (hc : Chained s h) : Chained s' (h.after e s) := by
  cases hm : e.startsMessage with
  | true =>
    have hd := datapath_of_startsMessage hs hm
    rw [History.after_start hm]
    exact ⟨(hs_of_datapath hd :), (blkcnt_of_datapath hd :)⟩
  | false =>
    rw [History.after_other hm]
    cases hf : e.performs 0x05000000#32 .roundsDone s with
    | true =>
      have hd := datapath_of_final hs hf
      have hhs : s'.hs = addHash s.hs s.wv := (hs_of_datapath hd :)
      have hn : s'.blkcnt = s.blkcnt + 1#32 := (blkcnt_of_datapath hd :)
      refine ⟨?_, ?_⟩
      · rw [hhs, addHash_eq_compress (performs_iff.mp hf).1 (sequenceOk_of_inv hi) hv, hc.hs]
        exact (hashBlocks_concat _ _).symm
      · rw [hn, hc.blkcnt]
        simp [BitVec.ofNat_add]
    | false => exact ⟨(hs_kept hs hm hf).trans hc.hs, (blkcnt_kept hs hm hf).trans hc.blkcnt⟩

/-- Whatever the events, none stops, and the chain holds after the last. -/
theorem follow_chained (l : List Event) {s : State} {h : History} (hi : s.Inv) (hr : s.RecurrenceInv) (hv : RoundsInv s)
    (hc : Chained s h) : ∃ t h', follow l s h = some (t, h') ∧ Chained t h' := by
  induction l generalizing s h with
  | nil => exact ⟨s, h, follow_nil s h, hc⟩
  | cons e l ih =>
    obtain ⟨u, hu, hiu⟩ := stepKeepsSequencingInvariant (s.setInputs [e]) hi
    obtain ⟨t, h', hf, hct⟩ := ih hiu (stepKeepsScheduleRecurrence.2 (s.setInputs [e]) u hr hu)
      (step_keeps_rounds hu hr hv) (step_keeps_chained hu hi hv hc)
    exact ⟨t, h', follow_cons_eq_some.mpr ⟨u, hu, hf⟩, hct⟩

/-- Settles O56: the chain of no blocks at reset, kept by every event. -/
theorem hashStateIsTheHashOfTheFinishedBlocks : Obligations.HashStateIsTheHashOfTheFinishedBlocks := by
  intro l
  obtain ⟨t, h, hf, hc⟩ := follow_chained l (s := State.reset) (h := .fresh) resetMeetsSequencingInvariant.1
    stepKeepsScheduleRecurrence.1 (fun hp => absurd rfl hp) ⟨rfl, rfl⟩
  exact ⟨t, h, hf, hc.hs, hc.blkcnt⟩

end Sys2Proof.Proofs
end

section
/-! PROOFS. A block run by the core (spec/42_compressor.md R178, spec/43_control.md R193, R194): RUN after the loads, and the
core's micro-steps with no event to come. -/

namespace Sys2Proof.Proofs

open Sys2Proof.Machine

/-! Runs in pieces. -/

theorem runSteps_add {m : Nat} {s t : State} (h : runSteps m s = .next t) (n : Nat) :
    runSteps (m + n) s = runSteps n t := by
  induction m generalizing s with
  | zero => obtain rfl := Host.Outcome.next.inj h; rw [Nat.zero_add]
  | succ m ih =>
    rw [Nat.succ_add, runSteps]
    rw [runSteps] at h
    cases hs : step s with
    | next u => rw [hs] at h; exact ih h
    | fault e => rw [hs] at h; cases h
    | refused e => rw [hs] at h; cases h

/-- Steps from each state of a row to the next. -/
theorem runSteps_row {F : Nat → State} (n : Nat) (h : ∀ k < n, step (F k) = .next (F (k + 1))) :
    runSteps n (F 0) = .next (F n) := by
  induction n with
  | zero => rfl
  | succ n ih =>
    rw [runSteps_add (ih fun k hk => h k (by omega)) 1, runSteps, h n (by omega)]; rfl

/-! The core alone. -/

/-- What the events lead to, and then the core alone; what the bus port shows plays no part in its turns. -/
theorem runSteps_of_leads {l : List Event} {s t : State} {bs : List (Vector Word 16)} (h : Leads l s t bs) (n : Nat) :
    runSteps (l.length + (n + 1)) (s.setInputs l) = runSteps (n + 1) t.device := by
  obtain ⟨r, hf⟩ := h .fresh
  exact runSteps_add (runSteps_of_follow hf) (n + 1)

/-- `s` handed to the core: BUSY is 1, no event is to come, and the bus port is quiet. -/
def running (s : State) : State := (s.setBusy true).device

theorem step_running_of_sched {s : State} (hp : s.phase = .sched) (ho : s.sequenceOk = true) :
    step (running s) = .next (running (schedNext s)) :=
  coreStep_of_sched (s := running s) hp ho

theorem step_running_of_compress {s : State} (hp : s.phase = .compress) (ho : s.sequenceOk = true) :
    step (running s) = .next (running (roundNext s)) :=
  coreStep_of_compress (s := running s) hp ho

/-- The last micro-step leaves BUSY at 0 (R194). -/
theorem step_running_of_roundsDone {s : State} (hb : s.busy = false) (hp : s.phase = .roundsDone)
    (ho : s.sequenceOk = true) : step (running s) = .next (finalNext s).device := by
  refine (coreStep_of_roundsDone (s := running s) hp ho).trans (congrArg _ ?_)
  exact (setBusy_of_busy_eq (s := (finalNext s).device) hb :)

/-- 48 schedule steps, 64 rounds and the final step by the core compute one block (R178, R194). -/
theorem runSteps_running {m : Vector Word 16} {s : State} (h : Loaded m s) (hb : s.busy = false) :
    runSteps 113 (running (seedStep s)) = .next (blockEnd s).device := by
  have hsched : runSteps 48 (running (schedAfter s 0)) = .next (running (schedAfter s 48)) := by
    refine runSteps_row (F := fun k => running (schedAfter s k)) 48 fun k hk => ?_
    have hl : (expandBy k m.toList).length = 16 + k := by simp [length_expandBy]
    obtain ⟨hp, ho⟩ := (h.scheduled hk.le).ready (by omega) (by omega)
    simpa only [schedAfter_succ] using step_running_of_sched hp ho
  have hround : runSteps 64 (running (roundAfter s 0)) = .next (running (roundAfter s 64)) := by
    refine runSteps_row (F := fun k => running (roundAfter s k)) 64 fun k hk => ?_
    obtain ⟨hp, ho⟩ := (h.rounded hk.le).ready hk
    simpa only [roundAfter_succ] using step_running_of_compress hp ho
  obtain ⟨hp, ho⟩ := (h.rounded (Nat.le_refl 64)).done
  have hb' : (roundAfter s 64).busy = false := (busy_of_untilFinal (untilFinal_roundAfter s 64)).trans hb
  have hfinal : runSteps 1 (running (roundAfter s 64)) = .next (blockEnd s).device := by
    rw [runSteps, step_running_of_roundsDone hb' hp ho]; rfl
  calc runSteps (48 + (64 + 1)) (running (schedAfter s 0))
    _ = runSteps (64 + 1) (running (schedAfter s 48)) := runSteps_add hsched _
    _ = runSteps 1 (running (roundAfter s 64)) := runSteps_add hround _
    _ = .next (blockEnd s).device := hfinal

/-- RUN in LOAD with all words loaded: the seed step, and BUSY is 1 (R193). -/
theorem leads_run {s : State} (hb : s.busy = false) (hp : s.phase = .load) (hw : s.wloaded = 0xFFFF#16) :
    Leads [cmd .run] s (acked ((seedStep s).setBusy true)) [] :=
  leads_cmd (by simp) (by simp [hp])
    ((unlessBusy_idle (s := acked s) hb).trans ((if_pos hp).trans (if_pos ((allLoaded_iff s).mpr hw))))

theorem BlockDone.device {m : Vector Word 16} {s t : State} (h : BlockDone m s t) : BlockDone m s t.device :=
  ⟨h.hs, h.blkcnt, h.err, h.phase, h.busy⟩

/-- The loads, RUN and 113 micro-steps do one block. -/
theorem runSteps_run_block (m : Vector Word 16) {s : State} (hp : s.phase = .load) (hb : s.busy = false) :
    ∃ t, runSteps 130 (s.setInputs (loadBlk m ++ [cmd .run])) = .next t ∧ BlockDone m s t := by
  have hl := loaded_loadAll m hp
  have hk := (foldl_loadWord_kept m (List.finRange 16) s).1
  have hb' : (loadAll m s).busy = false := (busy_of_untilFinal hk).trans hb
  have hrun := (leads_loads m _ hb hp).append (leads_run hb' hl.phase hl.full)
  exact ⟨_, (runSteps_of_leads hrun 112).trans (runSteps_running hl hb'), (hl.blockDone hb').device.of_untilFinal hk⟩

/-- The loads and 114 commands do one block. -/
theorem runSteps_single_block (m : Vector Word 16) {s : State} (hp : s.phase = .load) (hb : s.busy = false) :
    ∃ t, runSteps 130 (s.setInputs (loadBlk m ++ singleSteps)) = .next t ∧ BlockDone m s t := by
  obtain ⟨t, hl, hd⟩ := leads_block m hp hb
  obtain ⟨r, hf⟩ := hl .fresh
  have hrun := runSteps_of_follow hf
  rw [length_blockEvents] at hrun
  exact ⟨_, hrun, ⟨hd.hs, hd.blkcnt, hd.err, hd.phase, hd.busy⟩⟩

/-- Settles O50: the block is done either way. -/
theorem blockLeavesCompressOfExpand : Obligations.BlockLeavesCompressOfExpand := by
  intro s m hp _ _ hb
  obtain ⟨t, ht, hdt⟩ := runSteps_single_block m hp hb
  obtain ⟨u, hu, hdu⟩ := runSteps_run_block m hp hb
  exact ⟨⟨t, ht, hdt.hs, hdt.blkcnt, hdt.phase, hdt.busy, hdt.err⟩,
    ⟨u, hu, hdu.hs, hdu.blkcnt, hdu.phase, hdu.busy, hdu.err⟩⟩

end Sys2Proof.Proofs
end

section
/-! PROOFS. Reads among the micro-steps of a RUN (spec/42_compressor.md R178, spec/70_reset_and_hazards.md R258): a read changes
ERR at most, and the core's turns neither read ERR nor depend on what is to come. -/

namespace Sys2Proof.Proofs

open Sys2Proof.Machine

/-- The registers of `s` but ERR. -/
def withoutErr (s : State) : State := (s.setErr .clear).device

theorem step_withoutErr (s : State) : step (withoutErr s) = coreTurn (withoutErr s) := rfl

/-! A turn of the core. -/

/-- ERR and the model's own fields are no input of a turn of the core. -/
theorem coreTurn_withoutErr {u t : State} (h : coreTurn u = .next t) :
    coreTurn (withoutErr u) = .next (withoutErr t) := by
  cases coreTurn_change h with
  | same _ _ hcore => exact if_neg (by simp [withoutErr, State.device, hcore])
  | recorded _ hc => exact absurd rfl hc.1
  | coreScheduled hb hp ho => exact (if_pos hb).trans (coreStep_of_sched (s := withoutErr u) hp ho)
  | coreRounded hb hp ho => exact (if_pos hb).trans (coreStep_of_compress (s := withoutErr u) hp ho)
  | coreFinaled hb hp ho => exact (if_pos hb).trans (coreStep_of_roundsDone (s := withoutErr u) hp ho)

/-- `u` is `s` after a turn of the core, be it the next event or the core alone. -/
structure AfterTurn (s u : State) : Prop where
  listed : ∀ l, step (s.setInputs (.core :: l)) = .next (u.setInputs l)
  alone  : step (s.setInputs []) = .next (u.setInputs [])
  noErr  : step (withoutErr s) = .next (withoutErr u)
  inv    : u.Inv
  left   : turnsLeft u = turnsLeft s - 1

theorem exists_afterTurn {s : State} (hi : s.Inv) : ∃ u, AfterTurn s u := by
  obtain ⟨u, hu⟩ := coreTurn_next (u := s.setReply .quiet) hi
  have hturn (l : List Event) : coreTurn ((s.setReply .quiet).setInputs l) = .next (u.setInputs l) := by
    rw [coreTurn_ignoresInputs, hu, thenDo]
  exact ⟨u, hturn, hturn [], coreTurn_withoutErr (u := s.setReply .quiet) hu,
    change_keeps_inv (coreTurn_change hu) hi, coreTurn_turnsLeft (u := s.setReply .quiet) hu⟩

/-- Any number of turns of the core alone. -/
theorem runSteps_alone (n : Nat) {s : State} (hi : s.Inv) :
    ∃ t, runSteps n (s.setInputs []) = .next (t.setInputs []) ∧ runSteps n (withoutErr s) = .next (withoutErr t) ∧
      t.Inv ∧ turnsLeft t = turnsLeft s - n := by
  induction n generalizing s with
  | zero => exact ⟨s, rfl, rfl, hi, rfl⟩
  | succ n ih =>
    obtain ⟨u, hu⟩ := exists_afterTurn hi
    obtain ⟨t, ht, hte, hit, hleft⟩ := ih hu.inv
    have := hu.left
    exact ⟨t, by rw [runSteps, hu.alone]; exact ht, by rw [runSteps, hu.noErr]; exact hte, hit, by omega⟩

/-- Once BUSY is 0 the core's turns change nothing (R195). -/
theorem runSteps_withoutErr_idle {s : State} (hb : s.busy = false) (n : Nat) :
    runSteps n (withoutErr s) = .next (withoutErr s) := by
  have hs : step (withoutErr s) = .next (withoutErr s) :=
    (step_withoutErr s).trans (if_neg (by simp [withoutErr, State.device, hb]))
  induction n with
  | zero => rfl
  | succ n ih => rw [runSteps, hs]; exact ih

theorem busy_of_turnsLeft_eq_zero {s : State} (hi : s.Inv) (h : turnsLeft s = 0) : s.busy = false :=
  Bool.eq_false_of_not_eq_true fun hb => (turnsLeft_pos hi hb).ne' h

/-- A RUN has at most the 113 micro-steps of a whole block left (R194). -/
theorem microStepsLeft_le {s : State} (hi : s.Inv) : s.microStepsLeft ≤ 113 := by
  cases hp : s.phase with
  | load => simp [State.microStepsLeft, hp]
  | sched => have := sched_of_inv hi hp; rw [microStepsLeft_of_sched hp]; omega
  | compress => rw [microStepsLeft_of_compress hp]; omega
  | roundsDone => rw [microStepsLeft_of_roundsDone hp]; omega

/-! Reads. -/

/-- A read leaves every register but ERR as it is (R61, R152). -/
theorem access_read_withoutErr {x : Access} (hx : x.we = false) (u : State) :
    ∃ t, access x u = .next t ∧ withoutErr t = withoutErr u := by
  cases hr : x.reaches with
  | none => exact ⟨_, access_unmapped hr u, rfl⟩
  | some g =>
    refine ⟨answerRead (readTarget g u), by simp [access, hr, hx], ?_⟩
    obtain e | e := readTarget_state g u
    · rw [answerRead, e]; rfl
    · rw [answerRead, e]; rfl

theorem step_read {x : Access} (hx : x.we = false) (s : State) (l : List Event) :
    ∃ t, step (s.setInputs (.access x :: l)) = .next (t.setInputs l) ∧ withoutErr t = withoutErr s := by
  obtain ⟨t, ht, he⟩ := access_read_withoutErr hx s
  exact ⟨t, (access_ignoresInputs x s l).trans (by rw [ht, thenDo]), he⟩

theorem inv_of_withoutErr_eq {s t : State} (h : withoutErr t = withoutErr s) (hi : s.Inv) : t.Inv :=
  have hi' : (withoutErr s).Inv := hi
  (h ▸ hi' : (withoutErr t).Inv)

/-- Reads and turns of the core, in any order, lead where some turns of the core alone lead, up to ERR. -/
theorem runSteps_passive {l : List Event} (hl : ∀ e ∈ l, e.passive = true) {s : State} (hi : s.Inv) :
    ∃ t k, runSteps l.length (s.setInputs l) = .next (t.setInputs []) ∧
      runSteps k (withoutErr s) = .next (withoutErr t) ∧ t.Inv := by
  induction l generalizing s with
  | nil => exact ⟨s, 0, rfl, rfl, hi⟩
  | cons e l ih =>
    obtain ⟨he, hrest⟩ := List.forall_mem_cons.mp hl
    cases e with
    | reset => cases he
    | core =>
      obtain ⟨u, hu⟩ := exists_afterTurn hi
      obtain ⟨t, k, ht, hk, hit⟩ := ih hrest hu.inv
      exact ⟨t, k + 1, by rw [List.length_cons, runSteps, hu.listed]; exact ht, by rw [runSteps, hu.noErr]; exact hk, hit⟩
    | access x =>
      obtain ⟨u, hu, heq⟩ := step_read (by simpa [Event.passive] using he) s l
      obtain ⟨t, k, ht, hk, hit⟩ := ih hrest (inv_of_withoutErr_eq heq hi)
      exact ⟨t, k, by rw [List.length_cons, runSteps, hu]; exact ht, heq ▸ hk, hit⟩

/-- Settles O51: with the reads the core has at least the turns that the RUN needs, and those past its end change nothing. -/
theorem readsDoNotDisturbARun : Obligations.ReadsDoNotDisturbARun := by
  intro s l hi hb hl
  obtain ⟨v, k, hv, hve, hiv⟩ := runSteps_passive hl hi
  obtain ⟨t, ht, hte, -, -⟩ := runSteps_alone 113 hiv
  obtain ⟨u, hu, hue, hiu, hleft⟩ := runSteps_alone s.microStepsLeft hi
  rw [turnsLeft_of_busy hb, Nat.sub_self] at hleft
  have hub := busy_of_turnsLeft_eq_zero hiu hleft
  have hsame : withoutErr t = withoutErr u := by
    obtain ⟨d, hd⟩ := Nat.exists_eq_add_of_le ((microStepsLeft_le hi).trans (Nat.le_add_left 113 k))
    have hmany : runSteps (k + 113) (withoutErr s) = .next (withoutErr t) := (runSteps_add hve 113).trans hte
    rw [hd, runSteps_add hue, runSteps_withoutErr_idle hub] at hmany
    exact (Host.Outcome.next.inj hmany).symm
  have htb : t.busy = u.busy := (congrArg State.busy hsame :)
  exact ⟨t.setInputs [], u.setInputs [], l.length + 113, Nat.le_refl _, (runSteps_add hv 113).trans ht, hu, htb.trans hub,
    hub, hsame⟩

end Sys2Proof.Proofs
end

section
/-! PROOFS. The control unit (spec/43_control.md R191 to R197): NOP, INIT, RUN and the ERR write, and the core's micro-steps
beside the commands they match. -/

namespace Sys2Proof.Proofs

open Sys2Proof.Machine

/-! Commands. -/

theorem unlessBusy_of_busy {rule : State → Result} {s : State} (hb : s.busy = true) :
    unlessBusy rule s = .next (s.raise .busy) := if_pos hb

/-- While BUSY = 1 every command but INIT records E_BUSY and does nothing else (R190). -/
theorem exec_of_busy {i : Instr} (hi : i ≠ .init) {s : State} (hb : s.busy = true) : exec i s = .next (s.raise .busy) := by
  cases i with
  | init => exact absurd rfl hi
  | _ => exact unlessBusy_of_busy hb

/-- A word with a nonzero RSVD decodes to no command (R103). -/
theorem decode_of_reservedNonzero {v : Word} (h : v.extractLsb' 0 24 ≠ 0#24) : decode v = .error .reservedNonzero :=
  if_neg h

/-- Settles O24: the rule of NOP is to do nothing, and only the word 0 is NOP's. -/
theorem nopChangesNothing : Obligations.NopChangesNothing :=
  ⟨fun _ => unlessBusy_idle, fun _ => unlessBusy_of_busy, fun _ _ h => ⟨_, decode_of_reservedNonzero h⟩⟩

/-- Once a message has begun STATUS shows at most ERRF (R33, R192). -/
theorem initState_status (s : State) :
    (initState s).status = if s.err.code = .none then 0#32 else 0x80000000#32 := by
  have hs : (initState s).status = flag s.errf <<< 31 := by
    simp [State.status, initState, State.wfull, State.allLoaded, Phase.bits, flag, State.errf]
  rw [hs, State.errf]
  by_cases h : s.err.code = .none
  · simp [h, flag]
  · simp [h, flag]

/-- Settles O25: `Init()` sets each element. -/
theorem initStartsANewMessage : Obligations.InitStartsANewMessage := fun s =>
  ⟨initState s, rfl, rfl, rfl, fun j _ => wordAt_setSchedule_zero s j,
    rfl, rfl, rfl, rfl, rfl, rfl, rfl, rfl, rfl, rfl, rfl, rfl, initState_status s⟩

/-- Settles O22: the offset reaches ERR, and the write clears it. -/
theorem errWriteClearsErr : Obligations.ErrWriteClearsErr := fun s v =>
  access_write (g := .err) (by decide) v s

/-- RUN with BUSY = 0 in LOAD, all words loaded: the seed step, and BUSY is 1 (R193). -/
theorem exec_run_of_loaded {s : State} (hb : s.busy = false) (hp : s.phase = .load) (hw : s.wloaded = 0xFFFF#16) :
    exec .run s = .next ((seedStep s).setBusy true) :=
  (unlessBusy_idle hb).trans ((if_pos hp).trans (if_pos ((allLoaded_iff s).mpr hw)))

/-- In LOAD with a word not loaded RUN records E_SEQ (R193). -/
theorem exec_run_of_not_loaded {s : State} (hb : s.busy = false) (hp : s.phase = .load) (hw : s.wloaded ≠ 0xFFFF#16) :
    exec .run s = .next (s.raise .seq) :=
  (unlessBusy_idle hb).trans ((if_pos hp).trans (if_neg (mt (allLoaded_iff s).mp hw)))

/-- In a block in progress RUN sets BUSY and does nothing else (R193). -/
theorem exec_run_of_inProgress {s : State} (hb : s.busy = false) (hp : s.phase ≠ .load) :
    exec .run s = .next (s.setBusy true) :=
  (unlessBusy_idle hb).trans (if_neg hp)

/-- Settles O31, by the four outcomes of RUN. -/
theorem runHandsTheBlockToTheCore : Obligations.RunHandsTheBlockToTheCore := by
  refine ⟨fun s hb => exec_of_busy (i := .run) nofun hb, fun s hb =>
    ⟨exec_run_of_inProgress hb, exec_run_of_not_loaded hb, fun hp hw => ?_⟩⟩
  have hstart : exec .start s = .next (((seedStep s).setBusy true).setBusy false) :=
    (exec_start_of_loaded hb hp hw).trans (congrArg _ (setBusy_of_busy_eq (s := seedStep s) hb).symm)
  exact ⟨_, exec_run_of_loaded hb hp hw, hstart,
    rfl, rfl, rfl, rfl, rfl, rfl, rfl, rfl, rfl, rfl, rfl, rfl, rfl, rfl, rfl, rfl, rfl, rfl, rfl, rfl, rfl, rfl⟩

/-! The core's micro-steps: no datapath step reads BUSY or changes it. -/

theorem schedStep_setBusy (s : State) (b : Bool) : schedStep (s.setBusy b) = thenDo (schedStep s) (·.setBusy b) :=
  ite_thenDo rfl rfl

theorem roundStep_setBusy (s : State) (b : Bool) : roundStep (s.setBusy b) = thenDo (roundStep s) (·.setBusy b) :=
  ite_thenDo rfl rfl

theorem finalStep_setBusy (s : State) (b : Bool) : finalStep (s.setBusy b) = thenDo (finalStep s) (·.setBusy b) :=
  ite_thenDo rfl rfl

/-- The rule of SCHED, ROUND and FINAL with BUSY = 0, in its own phase: the datapath step, stops included. -/
theorem inPhase_idle {p : Phase} {dstep : State → Result} {s : State} (hb : s.busy = false) (hp : s.phase = p) :
    unlessBusy (fun u => if u.phase = p then dstep u else .next (u.raise .seq)) s = dstep s :=
  (unlessBusy_idle hb).trans (if_pos hp)

/-- In any other phase it records E_SEQ (R153, R172, R174). -/
theorem outOfPhase_idle {p : Phase} {dstep : State → Result} {s : State} (hb : s.busy = false) (hp : s.phase ≠ p) :
    unlessBusy (fun u => if u.phase = p then dstep u else .next (u.raise .seq)) s = .next (s.raise .seq) :=
  (unlessBusy_idle hb).trans (if_neg hp)

/-- A micro-step never records an error (R194). -/
theorem coreStep_err {s t : State} (hb : s.busy = true) (h : coreStep s = .next t) : t.err = s.err := by
  cases coreStep_change hb h with
  | recorded _ hc => exact absurd rfl hc.1
  | _ => rfl

/-- A step that ignores BUSY, made on the state with BUSY cleared and then set again. -/
theorem eq_thenDo_of_busy {dstep : State → Result}
    (hd : ∀ s b, dstep (s.setBusy b) = thenDo (dstep s) (·.setBusy b)) {s : State} (hb : s.busy = true) :
    dstep s = thenDo (dstep (s.setBusy false)) (·.setBusy true) :=
  (congrArg dstep (setBusy_of_busy_eq hb).symm).trans (hd (s.setBusy false) true)

/-- Settles O32: each command with BUSY = 0 is its datapath step, and so is the micro-step. -/
theorem microStepMatchesItsCommand : Obligations.MicroStepMatchesItsCommand := by
  intro s hb
  refine ⟨fun hp => ?sched, fun hp => ?round, fun hp => ?final, fun hp => by simp only [coreStep, hp],
    fun _ => coreStep_err hb⟩
  case sched =>
    have hexec : exec .sched (s.setBusy false) = schedStep (s.setBusy false) := inPhase_idle (s := s.setBusy false) rfl hp
    rw [hexec, ← eq_thenDo_of_busy schedStep_setBusy hb]
    simp only [coreStep, hp]
  case round =>
    have hexec : exec .round (s.setBusy false) = roundStep (s.setBusy false) := inPhase_idle (s := s.setBusy false) rfl hp
    rw [hexec, ← eq_thenDo_of_busy roundStep_setBusy hb]
    simp only [coreStep, hp]
  case final =>
    have hexec : exec .final (s.setBusy false) = finalStep (s.setBusy false) := inPhase_idle (s := s.setBusy false) rfl hp
    rw [hexec, finalStep_setBusy]
    simp only [coreStep, hp]

/-- Settles O33: the turn of an idle core changes no more than the events to come and the bus port. -/
theorem idleCoreChangesNothing : Obligations.IdleCoreChangesNothing := by
  intro s hb hc
  obtain ⟨rest, hs⟩ := step_of_core (nextEvent_of_coreIsNext hc)
  exact ⟨_, hs.trans (if_neg (by simp [hb])), rfl⟩

end Sys2Proof.Proofs
end

section
/-! PROOFS. The table of phase transitions (spec/43_control.md R198): what each command, each turn of the core and every other
event leaves in PHASE and BUSY. -/

namespace Sys2Proof.Proofs

open Sys2Proof.Machine

/-- The two elements that the table is about. -/
def phaseBusy (s : State) : Phase × Bool := (s.phase, s.busy)

/-- No two commands share a word (R102). -/
theorem encode_injective : Function.Injective encode := fun i j h => by
  simpa only [decode_encode, Except.ok.injEq] using congrArg decode h

/-! The rows of the table by command, with BUSY = 0. -/

section
variable {u : State}

theorem phaseAfterCommand_of_busy {v : Word} (hv : v ≠ 0x01000000#32) (hb : u.busy = true) :
    phaseAfterCommand v u = phaseBusy u := by
  simp [phaseAfterCommand, phaseBusy, hv, hb]

/-- A word that is no command's has no row. -/
theorem phaseAfterCommand_of_illegal {v : Word} (h : ∀ i, v ≠ encode i) : phaseAfterCommand v u = phaseBusy u := by
  have hinit : v ≠ 0x01000000#32 := h .init
  have hstart : v ≠ 0x02000000#32 := h .start
  have hsched : v ≠ 0x03000000#32 := h .sched
  have hround : v ≠ 0x04000000#32 := h .round
  have hfinal : v ≠ 0x05000000#32 := h .final
  have hrun : v ≠ 0x06000000#32 := h .run
  cases hb : u.busy with
  | true => exact phaseAfterCommand_of_busy hinit hb
  | false =>
    cases hp : u.phase <;> simp [phaseAfterCommand, phaseBusy, hb, hp, hinit, hstart, hsched, hround, hfinal, hrun]

variable (hb : u.busy = false)
include hb

theorem phaseAfterCommand_nop : phaseAfterCommand 0x00000000#32 u = phaseBusy u := by
  cases hp : u.phase <;> simp [phaseAfterCommand, phaseBusy, hb, hp]

theorem phaseAfterCommand_start : phaseAfterCommand 0x02000000#32 u =
    if u.phase = .load ∧ u.wloaded = 0xFFFF#16 then (.sched, false) else phaseBusy u := by
  cases hp : u.phase <;> simp [phaseAfterCommand, phaseBusy, hb, hp]

theorem phaseAfterCommand_sched : phaseAfterCommand 0x03000000#32 u =
    if u.phase = .sched then (if u.sIdx.toNat < 63 then .sched else .compress, false) else phaseBusy u := by
  cases hp : u.phase <;> simp [phaseAfterCommand, phaseBusy, hb, hp]

theorem phaseAfterCommand_round : phaseAfterCommand 0x04000000#32 u =
    if u.phase = .compress then (if u.tIdx.toNat < 63 then .compress else .roundsDone, false) else phaseBusy u := by
  cases hp : u.phase <;> simp [phaseAfterCommand, phaseBusy, hb, hp]

theorem phaseAfterCommand_final : phaseAfterCommand 0x05000000#32 u =
    if u.phase = .roundsDone then (.load, false) else phaseBusy u := by
  cases hp : u.phase <;> simp [phaseAfterCommand, phaseBusy, hb, hp]

theorem phaseAfterCommand_run : phaseAfterCommand 0x06000000#32 u =
    if u.phase = .load then (if u.wloaded = 0xFFFF#16 then (.sched, true) else (.load, false)) else (u.phase, true) := by
  cases hp : u.phase <;> simp [phaseAfterCommand, hb, hp]

end

/-! PHASE after the datapath steps, in the table's form. -/

theorem schedNext_phase_lt {u : State} (hp : u.phase = .sched) (ho : u.sequenceOk = true) :
    (schedNext u).phase = if u.sIdx.toNat < 63 then .sched else .compress := by
  obtain ⟨-, h63, -, -⟩ := (sequenceOk_of_sched hp).mp ho
  rw [schedNext_phase hp h63, ← ite_not]
  exact if_congr (by omega) rfl rfl

theorem roundNext_phase_lt {u : State} (hp : u.phase = .compress) (ho : u.sequenceOk = true) :
    (roundNext u).phase = if u.tIdx.toNat < 63 then .compress else .roundsDone := by
  obtain ⟨-, h63, -⟩ := (sequenceOk_of_compress hp).mp ho
  rw [roundNext_phase hp h63, ← ite_not]
  exact if_congr (by omega) rfl rfl

/-! Commands. -/

/-- SCHED, ROUND and FINAL, by the one row that each has: its phase's step there, E_SEQ and no change elsewhere. -/
theorem inPhase_phaseBusy {p : Phase} {dstep : State → State} {v : Word} {row : Phase × Bool} {u : State}
    (hb : u.busy = false) (ho : u.sequenceOk = true)
    (htable : phaseAfterCommand v u = if u.phase = p then row else phaseBusy u)
    (hstep : u.phase = p → phaseBusy (dstep u) = row) :
    ∃ t, unlessBusy (fun s => if s.phase = p then whenSequenceOk dstep s else .next (s.raise .seq)) u = .next t ∧
      phaseBusy t = phaseAfterCommand v u := by
  rw [htable]
  by_cases hp : u.phase = p
  · exact ⟨dstep u, inPhase_next hb hp ho, (hstep hp).trans (if_pos hp).symm⟩
  · exact ⟨u.raise .seq, outOfPhase_idle hb hp, (if_neg hp).symm⟩

/-- With BUSY = 0 a command leaves PHASE and BUSY as its row says. -/
theorem exec_idle_phaseBusy {i : Instr} {u : State} (hi : i ≠ .init) (hb : u.busy = false) (ho : u.sequenceOk = true) :
    ∃ t, exec i u = .next t ∧ phaseBusy t = phaseAfterCommand (encode i) u := by
  cases i with
  | init => exact absurd rfl hi
  | nop => exact ⟨u, unlessBusy_idle hb, (phaseAfterCommand_nop hb).symm⟩
  | start =>
    rw [show encode .start = 0x02000000#32 from rfl, phaseAfterCommand_start hb]
    by_cases h : u.phase = .load ∧ u.wloaded = 0xFFFF#16
    · rw [if_pos h]
      exact ⟨_, exec_start_of_loaded hb h.1 h.2, Prod.ext rfl hb⟩
    · rw [if_neg h]
      exact ⟨_, exec_start_of_not_loaded hb (not_and_or.mp h), rfl⟩
  | sched => exact inPhase_phaseBusy hb ho (phaseAfterCommand_sched hb) fun hp => Prod.ext (schedNext_phase_lt hp ho) hb
  | round => exact inPhase_phaseBusy hb ho (phaseAfterCommand_round hb) fun hp => Prod.ext (roundNext_phase_lt hp ho) hb
  | final => exact inPhase_phaseBusy hb ho (phaseAfterCommand_final hb) fun _ => Prod.ext rfl hb
  | run =>
    rw [show encode .run = 0x06000000#32 from rfl, phaseAfterCommand_run hb]
    by_cases h : u.phase = .load
    · rw [if_pos h]
      by_cases hw : u.wloaded = 0xFFFF#16
      · exact ⟨_, exec_run_of_loaded hb h hw, (if_pos hw).symm⟩
      · rw [if_neg hw]
        exact ⟨_, exec_run_of_not_loaded hb h hw, Prod.ext h hb⟩
    · rw [if_neg h]
      exact ⟨_, exec_run_of_inProgress hb h, rfl⟩

/-- A command leaves PHASE and BUSY as the table says, BUSY or not. -/
theorem exec_phaseBusy {i : Instr} {u t : State} (ho : u.sequenceOk = true) (h : exec i u = .next t) :
    phaseBusy t = phaseAfterCommand (encode i) u := by
  obtain rfl | hi := eq_or_ne i .init
  · obtain rfl := Host.Outcome.next.inj h
    rfl
  cases hb : u.busy with
  | true =>
    obtain rfl := Host.Outcome.next.inj ((exec_of_busy hi hb).symm.trans h)
    exact (phaseAfterCommand_of_busy (v := encode i) (fun e => hi (encode_injective e)) hb).symm
  | false =>
    obtain ⟨v, hv, e⟩ := exec_idle_phaseBusy hi hb ho
    obtain rfl := Host.Outcome.next.inj (hv.symm.trans h)
    exact e

theorem cmdWrite_phaseBusy {v : Word} {u t : State} (ho : u.sequenceOk = true) (h : cmdWrite v u = .next t) :
    phaseBusy t = phaseAfterCommand v u := by
  cases hd : decode v with
  | error e =>
    obtain rfl := Host.Outcome.next.inj ((cmdWrite_error hd u).symm.trans h)
    refine (phaseAfterCommand_of_illegal fun i hi => ?_).symm
    rw [hi, decode_encode] at hd
    cases hd
  | ok i =>
    rw [cmdWrite_ok hd] at h
    rw [eq_encode_of_decode hd]
    exact exec_phaseBusy ho h

/-! The other events. -/

/-- A transaction that is no write of a full word to CMD keeps PHASE and BUSY. -/
theorem access_phaseBusy_kept {x : Access} {u t : State} (hx : x ≠ cmdAccess x.wdata) (h : access x u = .next t) :
    phaseBusy t = phaseBusy u := by
  obtain ⟨r, c, hc, hchange⟩ := access_change (s := u.setInputs [.access x]) h ⟨[], rfl⟩
  obtain ⟨hcore, hreset, hcommand⟩ := nextEvent_of_hasCause hc
  cases c with
  | core => cases hcore rfl
  | reset => cases hreset rfl
  | command i =>
    obtain ⟨v, -, hv⟩ := hcommand i rfl
    obtain rfl : x = cmdAccess v := Event.access.inj hv
    exact absurd rfl hx
  | errWrite => cases hchange with
    | same => rfl
    | recorded => rfl
    | errCleared => rfl
  | other => cases hchange with
    | same => rfl
    | recorded => rfl
    | loaded => rfl

/-- A turn of the core leaves PHASE and BUSY as the core's rows say. -/
theorem coreTurn_phaseBusy {u t : State} (h : coreTurn u = .next t) :
    phaseBusy t = if u.busy then phaseAfterCore u else phaseBusy u := by
  cases coreTurn_change h with
  | same _ _ hcore => simp [hcore]
  | recorded _ hc => exact absurd rfl hc.1
  | coreScheduled hb hp ho =>
    rw [if_pos hb]
    simp only [phaseAfterCore, hp, phaseBusy, schedNext_phase_lt hp ho, show (schedNext u).busy = true from hb]
    split <;> rfl
  | coreRounded hb hp ho =>
    rw [if_pos hb]
    simp only [phaseAfterCore, hp, phaseBusy, roundNext_phase_lt hp ho, show (roundNext u).busy = true from hb]
    split <;> rfl
  | coreFinaled hb hp ho =>
    rw [if_pos hb]
    simp only [phaseAfterCore, hp]
    rfl

/-! The table by event. -/

theorem phaseAfter_core {s : State} (h : s.coreIsNext) :
    phaseAfter s = if s.busy then phaseAfterCore s else phaseBusy s := by
  obtain h | ⟨rest, h⟩ := h <;> simp only [phaseAfter, h, phaseBusy]

/-- Settles O48, by cases on the event of the step. -/
theorem phaseTransitionsFollowTheTable : Obligations.PhaseTransitionsFollowTheTable := by
  intro s s' hi h
  have ho := sequenceOk_of_inv hi
  cases hl : s.inputs with
  | nil =>
    rw [step_alone hl] at h
    rw [phaseAfter_core (.inl hl)]
    exact (coreTurn_phaseBusy h :)
  | cons e rest =>
    cases e with
    | core =>
      rw [step_core hl] at h
      rw [phaseAfter_core (.inr ⟨rest, hl⟩)]
      exact (coreTurn_phaseBusy h :)
    | reset =>
      obtain rfl := Host.Outcome.next.inj ((step_reset hl).symm.trans h)
      simp only [phaseAfter, hl]
      rfl
    | access x =>
      rw [step_access hl] at h
      simp only [phaseAfter, hl]
      by_cases hx : x = cmdAccess x.wdata
      · rw [if_pos hx]
        rw [hx, access_cmd] at h
        exact (cmdWrite_phaseBusy (u := (s.setInputs rest).setReply .ack) ho h :)
      · rw [if_neg hx]
        exact (access_phaseBusy_kept hx h :)

end Sys2Proof.Proofs
end

section
/-! PROOFS. How long a RUN takes (spec/43_control.md R194, R196): `turnsLeft` goes down by one at each turn of the core, and no
other event raises it while BUSY = 1. -/

namespace Sys2Proof.Proofs

open Sys2Proof.Machine

/-! A RUN left alone (R194). -/

/-- The core alone: after n turns the RUN has n fewer left, or is finished. -/
theorem runSteps_alone_running {e : ErrReg} (n : Nat) {s : State} (hr : Running e s) :
    ∃ t, runSteps n (s.setInputs []) = .next (t.setInputs []) ∧ Running e t ∧ turnsLeft t = turnsLeft s - n := by
  induction n generalizing s with
  | zero => exact ⟨s, rfl, hr, rfl⟩
  | succ n ih =>
    obtain ⟨u, hu⟩ := exists_afterTurn hr.inv
    have hr' : Running e ((s.setInputs []).setReply .quiet) := ⟨hr.inv, hr.err, hr.load⟩
    obtain ⟨hiu, herr, hload⟩ := coreTurn_running ((step_alone rfl).symm.trans hu.alone) hr'
    obtain ⟨t, ht, hrt, hleft⟩ := ih (s := u) ⟨hiu, herr, hload⟩
    have := hu.left
    exact ⟨t, by rw [runSteps, hu.alone]; exact ht, hrt, by omega⟩

theorem busy_of_turnsLeft_pos {s : State} (h : 0 < turnsLeft s) : s.busy = true := by
  cases hb : s.busy with
  | true => rfl
  | false => rw [turnsLeft_of_idle hb] at h; cases h

/-- A block's whole RUN: 48 schedule steps, 64 rounds and the final step (R194). -/
theorem microStepsLeft_seedStep (s : State) : ((seedStep s).setBusy true).microStepsLeft = 113 :=
  microStepsLeft_of_sched rfl

/-- Settles O34: each turn of the core takes one of the turns that are left, and BUSY is 1 as long as one is. -/
theorem runTakesExactlyItsMicroSteps : Obligations.RunTakesExactlyItsMicroSteps := by
  refine ⟨fun s hi hb hin => ?_, fun s t hb hp hw h => ?_⟩
  · have hr := running_of_busy hi rfl hb
    have halone : s = s.setInputs [] := by rw [← hin]; rfl
    rw [← turnsLeft_of_busy hb]
    refine ⟨?_, fun m hm => ?_⟩
    · obtain ⟨t, ht, hrt, hleft⟩ := runSteps_alone_running (turnsLeft s) hr
      have hbt := busy_of_turnsLeft_eq_zero hrt.inv (hleft.trans (Nat.sub_self _))
      exact ⟨t.setInputs [], halone ▸ ht, hbt, hrt.load hbt⟩
    · obtain ⟨u, hu, -, hleft⟩ := runSteps_alone_running m hr
      exact ⟨u.setInputs [], halone ▸ hu, busy_of_turnsLeft_pos (s := u) (by omega)⟩
  · obtain rfl := Host.Outcome.next.inj ((exec_run_of_loaded hb hp hw).symm.trans h)
    exact microStepsLeft_seedStep s

/-! A RUN among other events (R196). -/

/-- Any list of events is run to its end, and R35 holds there. -/
theorem runSteps_events (l : List Event) {s : State} (hi : s.Inv) :
    ∃ t : State, runSteps l.length (s.setInputs l) = .next (t.setInputs []) ∧ t.Inv := by
  induction l generalizing s with
  | nil => exact ⟨s, rfl, hi⟩
  | cons e l ih =>
    obtain ⟨u, hu, hiu⟩ := stepKeepsSequencingInvariant (s.setInputs [e]) hi
    obtain ⟨t, ht, hit⟩ := ih hiu
    have hs : step (s.setInputs (e :: l)) = .next (u.setInputs l) := by rw [step_setInputs_cons, hu]; rfl
    exact ⟨t, by rw [List.length_cons, runSteps, hs]; exact ht, hit⟩

/-- Settles O35: after the last event the core needs at most the 113 micro-steps of a whole block. -/
theorem busyEndsAfterBoundedSteps : Obligations.BusyEndsAfterBoundedSteps := by
  intro s hi
  obtain ⟨u, hu, hiu⟩ := runSteps_events s.inputs hi
  obtain ⟨t, ht, -, hit, hleft⟩ := runSteps_alone 113 hiu
  have hle : turnsLeft u ≤ 113 := by
    have := microStepsLeft_le hiu
    unfold turnsLeft
    split <;> omega
  exact ⟨s.inputs.length + 113, t.setInputs [], Nat.le_refl _, (runSteps_add hu 113).trans ht,
    busy_of_turnsLeft_eq_zero (s := t) hit (by omega)⟩

/-- While BUSY = 1 no change gives the core more to do: INIT and reset end the RUN, and the host can load or start nothing. -/
theorem change_turnsLeft_le {c : Cause} {u t : State} (h : Change u c t) (hb : u.busy = true) : turnsLeft t ≤ turnsLeft u := by
  have hidle : u.busy ≠ false := by simp [hb]
  cases h with
  | same => exact Nat.le_refl _
  | recorded => exact Nat.le_refl _
  | errCleared => exact Nat.le_refl _
  | inited => exact Nat.zero_le _
  | wasReset => exact Nat.zero_le _
  | coreFinaled => exact Nat.zero_le _
  | coreScheduled _ hp ho =>
    rw [turnsLeft_of_busy hb, turnsLeft_of_busy (s := schedNext u) hb, schedNext_microStepsLeft hp ho]
    exact Nat.sub_le _ _
  | coreRounded _ hp ho =>
    rw [turnsLeft_of_busy hb, turnsLeft_of_busy (s := roundNext u) hb, roundNext_microStepsLeft hp ho]
    exact Nat.sub_le _ _
  | loaded _ _ _ hb' => exact absurd hb' hidle
  | started hb' => exact absurd hb' hidle
  | ranFromLoad hb' => exact absurd hb' hidle
  | ranOn hb' => exact absurd hb' hidle
  | scheduled hb' => exact absurd hb' hidle
  | rounded hb' => exact absurd hb' hidle
  | finaled hb' => exact absurd hb' hidle

section
variable {event : Nat → Event} {state : Nat → State} (hex : isExecution event state)
include hex

theorem inv_of_isExecution (hi : (state 0).Inv) (n : Nat) : (state n).Inv := by
  induction n with
  | zero => exact hi
  | succ n ih => exact step_keeps_inv (hex n) ih

theorem turnsLeft_succ_le {n : Nat} (hb : (state n).busy = true) : turnsLeft (state (n + 1)) ≤ turnsLeft (state n) := by
  obtain ⟨rest, r, c, -, hc⟩ := step_change (hex n)
  exact (change_turnsLeft_le hc hb :)

theorem turnsLeft_succ_of_core {n : Nat} (he : event n = .core) :
    turnsLeft (state (n + 1)) = turnsLeft (state n) - 1 := by
  have hs := hex n
  rw [he, step_core rfl] at hs
  exact (coreTurn_turnsLeft hs :)

/-- BUSY does not stay 1 from step n on if the core has a turn ever again: the turns that are left would go down for ever. -/
theorem busy_not_forever (hi : (state 0).Inv) (hcore : ∀ n, ∃ m ≥ n, event m = .core) (n : Nat) :
    ¬ ∀ m ≥ n, (state m).busy = true := by
  induction hk : turnsLeft (state n) using Nat.strong_induction_on generalizing n with
  | _ k ih =>
    intro hb
    obtain ⟨m, hm, he⟩ := hcore n
    have hle : turnsLeft (state m) ≤ turnsLeft (state n) :=
      antitoneOn_nat_Ici_of_succ_le (f := fun j => turnsLeft (state j)) (fun j hj => turnsLeft_succ_le hex (hb j hj))
        (Nat.le_refl n) hm hm
    have hlt : turnsLeft (state (m + 1)) < k := by
      have := turnsLeft_pos (inv_of_isExecution hex hi m) (hb m hm)
      rw [turnsLeft_succ_of_core hex he]
      omega
    exact ih _ hlt (m + 1) rfl fun j hj => hb j (by omega)

end

/-- The host can keep BUSY at 1 for any number of steps, by reads. -/
theorem runSteps_reads_busy (n : Nat) {s : State} (hb : s.busy = true) :
    ∃ t, runSteps n (s.setInputs (List.replicate n (rd 0x008#12))) = .next t ∧ t.busy = true := by
  induction n generalizing s with
  | zero => exact ⟨_, rfl, hb⟩
  | succ n ih =>
    obtain ⟨u, hu, he⟩ : ∃ u : State, step (s.setInputs (List.replicate (n + 1) (rd 0x008#12))) =
        .next (u.setInputs (List.replicate n (rd 0x008#12))) ∧ withoutErr u = withoutErr s := 
      step_read (x := { we := false, off := 0x008#12, size := .word, wdata := 0#32 }) rfl s _
    have hbu : u.busy = s.busy := (congrArg State.busy he :)
    obtain ⟨t, ht, hbt⟩ := ih (hbu.trans hb)
    exact ⟨t, by rw [runSteps, hu]; exact ht, hbt⟩

/-- Settles O36: a fair core has turns as long as BUSY stays 1, and each takes one of the finitely many that are left; polls
of STATUS hold the core up for any number of steps. -/
theorem weakFairnessEndsEveryRun : Obligations.WeakFairnessEndsEveryRun := by
  refine ⟨fun event state hi hex hfair n => ?_, fun s n hb => ?_⟩
  · by_contra hnone
    have hbusy : ∀ m ≥ n, (state m).busy = true := fun m hm =>
      Bool.eq_true_of_not_eq_false fun hb => hnone ⟨m, hm, hb⟩
    exact busy_not_forever hex hi (hfair ⟨n, hbusy⟩) n hbusy
  · obtain ⟨t, ht, hbt⟩ := runSteps_reads_busy n hb
    exact ⟨_, t, List.length_replicate, ht, hbt⟩

end Sys2Proof.Proofs
end

section
/-! PROOFS. A block either way (spec/42_compressor.md R178, spec/43_control.md R194): by RUN, and by single-step commands. -/

namespace Sys2Proof.Proofs

open Sys2Proof.Machine

theorem inputs_of_device (u : State) : u.device.inputs = [] := rfl

theorem device_of_acked (u : State) : u.device.device = ((acked u).setInputs []).device := rfl

/-- Settles O49: either way the device ends as `blockEnd` of the loaded state. -/
theorem runEqualsSingleSteps : Obligations.RunEqualsSingleSteps := by
  intro s hp _ _ hb hw
  have hl : Loaded s.blockInProgress s := ⟨hp, hw, holdsWords_blockInProgress s⟩
  have hrun : runSteps 114 (s.setInputs [cmd .run]) = .next (blockEnd s).device :=
    (runSteps_of_leads (leads_run hb hp hw) 112).trans (runSteps_running hl hb)
  obtain ⟨r, hf⟩ := leads_singleSteps hl hb .fresh
  have hsingle := runSteps_of_follow hf
  rw [show singleSteps.length = 114 by simp [singleSteps]] at hsingle
  have hdone := (hl.blockDone hb).device
  exact ⟨_, _, hrun, hsingle, device_of_acked _, hdone.phase, hdone.busy, inputs_of_device _⟩

end Sys2Proof.Proofs
end

section
/-! PROOFS. Errors of transactions (spec/60_exceptions.md R222 to R230): where one is expected it is recorded, and nothing else
happens. -/

namespace Sys2Proof.Proofs

open Sys2Proof.Machine

/-! The error of a command word. -/

theorem decode_illegal {v : Word} (h : v.extractLsb' 0 24 ≠ 0#24 ∨ 7 ≤ (v.extractLsb' 24 8).toNat) :
    ∃ e, decode v = .error e := by
  cases hd : decode v with
  | error e => exact ⟨e, rfl⟩
  | ok i =>
    obtain ⟨hr, ho⟩ := (decodeAcceptsExactlyTheOpcodeMap.1 v).mp ⟨i, hd⟩
    exact absurd h (not_or.mpr ⟨not_not_intro hr, by omega⟩)

theorem decode_legal {v : Word} (h : ¬ (v.extractLsb' 0 24 ≠ 0#24 ∨ 7 ≤ (v.extractLsb' 24 8).toNat)) :
    ∃ i, decode v = .ok i := by
  obtain ⟨hr, ho⟩ := not_or.mp h
  exact (decodeAcceptsExactlyTheOpcodeMap.1 v).mpr ⟨not_not.mp hr, by omega⟩

/-- The commands out of sequence, one by one (R225). -/
theorem commandOutOfSequence_iff {v : Word} {s : State} : commandOutOfSequence v s = true ↔
    (v = encode .start ∧ (s.phase ≠ .load ∨ s.wloaded ≠ 0xFFFF#16)) ∨ (v = encode .sched ∧ s.phase ≠ .sched) ∨
      (v = encode .round ∧ s.phase ≠ .compress) ∨ (v = encode .final ∧ s.phase ≠ .roundsDone) ∨
      (v = encode .run ∧ s.phase = .load ∧ s.wloaded ≠ 0xFFFF#16) := by
  simp [commandOutOfSequence, encode, wordOf, opcodeOf, or_assoc, and_assoc]

/-- With BUSY = 0 a command out of sequence records E_SEQ and does nothing else (R225). -/
theorem cmdWrite_of_outOfSequence {v : Word} {s : State} (hb : s.busy = false) (h : commandOutOfSequence v s = true) :
    cmdWrite v s = .next (s.raise .seq) := by
  obtain ⟨rfl, hp⟩ | ⟨rfl, hp⟩ | ⟨rfl, hp⟩ | ⟨rfl, hp⟩ | ⟨rfl, hp, hw⟩ := commandOutOfSequence_iff.mp h
  · exact (cmdWrite_ok (decode_encode _) s).trans (exec_start_of_not_loaded hb hp)
  · exact (cmdWrite_ok (decode_encode _) s).trans (outOfPhase_idle hb hp)
  · exact (cmdWrite_ok (decode_encode _) s).trans (outOfPhase_idle hb hp)
  · exact (cmdWrite_ok (decode_encode _) s).trans (outOfPhase_idle hb hp)
  · exact (cmdWrite_ok (decode_encode _) s).trans (exec_run_of_not_loaded hb hp hw)

/-- INIT is never out of sequence. -/
theorem ne_init_of_outOfSequence {v : Word} {s : State} (h : commandOutOfSequence v s = true) : v ≠ 0x01000000#32 := by
  rintro rfl
  simp [commandOutOfSequence] at h

/-- A command word with an error records it and does nothing else, in the priority of R230. -/
theorem cmdWrite_of_commandError {v : Word} {s : State} {c : ErrCode} (h : commandError v s = some c) :
    cmdWrite v s = .next (s.raise c) := by
  unfold commandError at h
  split at h
  · obtain rfl := Option.some.inj h
    obtain ⟨e, he⟩ := decode_illegal ‹_›
    exact cmdWrite_error he s
  rename_i hlegal
  obtain ⟨i, hi⟩ := decode_legal hlegal
  split at h
  · rename_i hbusy
    obtain rfl := Option.some.inj h
    have hinit : i ≠ .init := by
      rintro rfl
      exact hbusy.2 (eq_encode_of_decode hi)
    rw [cmdWrite_ok hi, exec_of_busy hinit hbusy.1]
  rename_i hbusy
  split at h
  · rename_i hseq
    obtain rfl := Option.some.inj h
    exact cmdWrite_of_outOfSequence
      (Bool.eq_false_of_not_eq_true fun hb => hbusy ⟨hb, ne_init_of_outOfSequence hseq⟩) hseq
  · cases h

/-! The error of a transaction. -/

/-- The writable registers: CMD, ERR and the block words (R67). -/
theorem writable_of_target {off : BitVec 12} {g : Target} (ht : target off = some g) (hro : readOnlyOffset off.toNat ≠ true) :
    (g = .cmd ∧ off = 0x004#12) ∨ (g = .err ∧ off = 0x00C#12) ∨ ∃ j, g = .schedWord j ∧ g.readOnly = false := by
  have hg : g.readOnly = false :=
    Bool.eq_false_of_not_eq_true (mt ((addressDecodeFollowsTheMap off).2 g ht).mp hro)
  cases g with
  | cmd => exact .inl ⟨rfl, target_cmd_err.1 ht⟩
  | err => exact .inr (.inl ⟨rfl, target_cmd_err.2 ht⟩)
  | schedWord j => exact .inr (.inr ⟨j, rfl, hg⟩)
  | _ => cases hg

/-- The schedule word at an offset of the W window (R37). -/
theorem target_of_schedOffset {off : BitVec 12} (ha : off.toNat % 4 = 0) (hl : 0x100 ≤ off.toNat) (hu : off.toNat ≤ 0x1FC) :
    target off = some (.schedWord ((off.toNat - 0x100) / 4)) := by
  rw [← target_schedWord (j := (off.toNat - 0x100) / 4) (by omega)]
  exact congrArg target (BitVec.eq_of_toNat_eq (by rw [BitVec.toNat_ofNat]; omega))

/-- A word load with an error, E_BUSY before E_SEQ (R150, R230). -/
theorem wordLoad_of_error {j : Nat} {v : Word} {u : State} {c : ErrCode}
    (h : (if u.busy then some ErrCode.busy else if u.phase ≠ .load then some .seq else none) = some c) :
    wordLoad j v u = u.raise c := by
  split at h
  · obtain rfl := Option.some.inj h
    exact wordLoad_of_busy ‹_›
  split at h
  · obtain rfl := Option.some.inj h
    exact wordLoad_of_ne_load ‹_› ‹_›
  · cases h

/-- A transaction that has an error records it and does nothing else; a read then returns 0 (R223, R230). -/
theorem access_of_expectedError {x : Access} {s : State} {c : ErrCode} (h : expectedError x s = some c) :
    access x s = .next ((s.raise c).setReply (if x.we then .ack else .rdata 0#32)) := by
  obtain ⟨we, off, size, v⟩ := x
  dsimp only [expectedError] at h
  split at h
  · obtain rfl := Option.some.inj h
    exact access_unmapped (reaches_eq_none.mpr ‹_›) s
  obtain ⟨ha, hsize, hres⟩ : off.toNat % 4 = 0 ∧ size = .word ∧ ¬ reservedOffset off.toNat = true := by tauto
  subst hsize
  obtain ⟨g, ht⟩ : ∃ g, target off = some g := Option.ne_none_iff_exists'.mp (mt target_eq_none.mp (by tauto))
  cases we with
  | true =>
    rw [access_write ht]
    rw [if_pos rfl] at h
    split at h
    · rename_i hro
      obtain rfl := Option.some.inj h
      exact if_pos (((addressDecodeFollowsTheMap off).2 g ht).mpr hro)
    obtain ⟨rfl, rfl⟩ | ⟨rfl, rfl⟩ | ⟨j, rfl, hg⟩ := writable_of_target ht ‹_›
    · exact cmdWrite_of_commandError (s := s.setReply .ack) h
    · cases h
    · have ho : off.toNat = 0x100 + 4 * j := (offset_of_reaches_schedWord (x := ⟨true, off, .word, v⟩) ht).1
      rw [if_neg (by omega), if_neg (by omega)] at h
      have hload : writeTarget (.schedWord j) v (s.setReply .ack) = .next (wordLoad j v (s.setReply .ack)) :=
        if_neg (by simp [hg])
      rw [hload, wordLoad_of_error (u := s.setReply .ack) h]
      rfl
  | false =>
    rw [if_neg Bool.false_ne_true] at h
    split at h
    · obtain ⟨hl, hu, hv⟩ := ‹_ ∧ _›
      obtain rfl := Option.some.inj h
      rw [access_read (target_of_schedOffset ha hl hu), readTarget, wordRead_of_not_valid (Bool.not_eq_true _ ▸ hv)]
      rfl
    · cases h

theorem commandError_ne_none (v : Word) (s : State) : commandError v s ≠ some .none := by
  unfold commandError; split_ifs <;> simp

/-- What a transaction reports is an error. -/
theorem expectedError_ne_none (x : Access) (s : State) : expectedError x s ≠ some .none := by
  unfold expectedError; split_ifs <;> simp [commandError_ne_none]

end Sys2Proof.Proofs
end

section
/-! PROOFS. What the history of a message shows of its errors (spec/43_control.md R199, spec/70_reset_and_hazards.md R255). -/

namespace Sys2Proof.Proofs

open Sys2Proof.Machine

/-! One event. -/

/-- After an event that reports an error CODE is not 0 (R222). -/
theorem code_of_reportsError {e : Event} {s s' : State} (h : step (s.setInputs [e]) = .next s')
    (hr : e.reportsError s = true) : s'.err.code ≠ .none := by
  cases e with
  | core => cases hr
  | reset => cases hr
  | access x =>
    obtain ⟨c, hc⟩ := Option.isSome_iff_exists.mp hr
    have hne : c ≠ .none := by
      rintro rfl
      exact expectedError_ne_none x s hc
    have hs := (step_access rfl).trans (access_of_expectedError (s := (s.setInputs [.access x]).setInputs []) hc)
    obtain rfl := Host.Outcome.next.inj (hs.symm.trans h)
    exact record_code_ne_none hne

/-- Only the ERR write and reset bring CODE back to 0 (R222). -/
theorem change_code_kept {c : Cause} {u t : State} (h : Change u c t) (hw : c ≠ .errWrite) (hr : c ≠ .reset)
    (hu : u.err.code ≠ .none) : t.err.code ≠ .none := by
  cases h with
  | recorded _ _ e he => exact record_code_ne_none he
  | errCleared => exact absurd rfl hw
  | wasReset => exact absurd rfl hr
  | _ => exact hu

/-- An event that is no ERR write has none as its cause. -/
theorem cause_of_not_writesErr {s : State} {c : Cause} (hc : s.hasCause c) (hw : s.nextEvent.writesErr = false) :
    c ≠ .errWrite := by
  rintro rfl
  obtain ⟨v, rest, hi⟩ := hc
  rw [nextEvent_of_inputs hi] at hw
  cases hw

/-- CODE stays nonzero over an event that neither starts a message nor writes ERR. -/
theorem code_kept {e : Event} {s s' : State} (h : step (s.setInputs [e]) = .next s') (hm : e.startsMessage = false)
    (hw : e.writesErr = false) (hs : s.err.code ≠ .none) : s'.err.code ≠ .none := by
  obtain ⟨rest, r, c, hc, hchange⟩ := step_change h
  exact change_code_kept hchange (cause_of_not_writesErr hc hw) (cause_of_not_startsMessage hc hm).2 hs

/-! A list of events. -/

/-- What every event keeps of the state and the history, following a list keeps. -/
theorem follow_invariant {P : State → History → Prop}
    (hstep : ∀ e s s' h, step (s.setInputs [e]) = .next s' → P s h → P s' (h.after e s)) {l : List Event} {s t : State}
    {h h' : History} (hf : follow l s h = some (t, h')) (hp : P s h) : P t h' := by
  induction l generalizing s h with
  | nil =>
    obtain ⟨rfl, rfl⟩ : s = t ∧ h = h' := by simpa using hf
    exact hp
  | cons e l ih =>
    obtain ⟨u, hu, hf⟩ := follow_cons_eq_some.mp hf
    exact ih hf (hstep e s u h hu hp)

/-- An error reported since the last INIT or reset still shows in CODE, unless the host wrote ERR. -/
def ErrorShown (s : State) (h : History) : Prop :=
  h.errReported = true → h.errWritten = true ∨ s.err.code ≠ .none

theorem step_keeps_errorShown (e : Event) (s s' : State) (h : History) (hs : step (s.setInputs [e]) = .next s')
    (hv : ErrorShown s h) : ErrorShown s' (h.after e s) := by
  cases hm : e.startsMessage with
  | true =>
    rw [History.after_start hm]
    exact nofun
  | false =>
    rw [History.after_other hm]
    intro hrep
    cases hw : e.writesErr with
    | true => exact .inl (Bool.or_true _)
    | false =>
      obtain hold | hnew := (Bool.or_eq_true _ _).mp hrep
      · exact (hv hold).imp (fun hwritten => by simp [hwritten]) (code_kept hs hm hw)
      · exact .inr (code_of_reportsError hs hnew)

/-- Settles O57: along the events from reset, an error that was reported shows in CODE or in the ERR write that cleared it. -/
theorem completedMessageHadNoError : Obligations.CompletedMessageHadNoError := by
  intro l t h n hf
  have hshown : ErrorShown t h := follow_invariant step_keeps_errorShown hf nofun
  have hclean (hc : messageCompleted n t h = true) : h.errReported = false := by
    obtain ⟨-, hw, -, -, -, hcode⟩ := messageCompleted_iff.mp hc
    exact Bool.eq_false_of_not_eq_true fun hr => (hshown hr).elim (by simp [hw]) (absurd hcode)
  refine ⟨fun hc => ?_, fun hbad => if_neg fun hc => ?_⟩
  · obtain ⟨hlen, -, hn, -⟩ := messageCompleted_iff.mp hc
    exact ⟨hclean hc, hlen, hn, completedDigest_eq_some.mpr ⟨hc, rfl⟩⟩
  · obtain ⟨-, hw, -, hp, hb, -⟩ := messageCompleted_iff.mp hc
    simp [hclean hc, hw, hp, hb] at hbad

end Sys2Proof.Proofs
end

section
/-! PROOFS. The rules of the errors (spec/60_exceptions.md R222 to R230): what records an error and what clears it, and what is
refused and accepted while BUSY = 1. -/

namespace Sys2Proof.Proofs

open Sys2Proof.Machine

/-- Settles O19: where an error is expected it is recorded, and nothing else happens. -/
theorem erroneousAccessOnlyRecordsTheFirstError : Obligations.ErroneousAccessOnlyRecordsTheFirstError :=
  fun _ _ _ => access_of_expectedError

/-- Settles O4: the word decodes to no command, and CmdWrite looks at the decoding before it looks at BUSY or PHASE. -/
theorem illegalCommandWordOnlyRecordsIllegal : Obligations.IllegalCommandWordOnlyRecordsIllegal := by
  intro s v h
  obtain ⟨e, he⟩ := decode_illegal h
  rw [access_cmd, cmdWrite_error he]
  rfl

/-! The first error (R222). -/

/-- Where a CODE stands, a later error keeps it and sets MULTI only (R222). -/
theorem record_of_code_ne_none {r : ErrReg} (h : r.code ≠ .none) (e : ErrCode) :
    r.record e = { r with multi := true } := if_neg h

/-- A CODE that is not 0 stays as it is, or the ERR write or reset clears it (R197, R222, R250). -/
theorem change_code {c : Cause} {u t : State} (h : Change u c t) (hu : u.err.code ≠ .none) :
    t.err.code = u.err.code ∨ (t.err.code = .none ∧ (c = .reset ∨ c = .errWrite)) := by
  cases h with
  | recorded _ _ e => exact .inl (congrArg ErrReg.code (record_of_code_ne_none hu e) :)
  | errCleared => exact .inr ⟨rfl, .inr rfl⟩
  | wasReset => exact .inr ⟨rfl, .inl rfl⟩
  | _ => exact .inl rfl

/-- Settles O21: recording is R222's equation by definition; and by cases on how a step can leave CODE. -/
theorem firstErrorIsKeptUntilCleared : Obligations.FirstErrorIsKeptUntilCleared := by
  refine ⟨fun s c => rfl, fun s s' h hs hne => ?_⟩
  obtain ⟨rest, r, c, hcause, hchange⟩ := step_change h
  obtain hkept | ⟨hnone, rfl | rfl⟩ := change_code hchange hs
  · exact absurd hkept hne
  · exact ⟨hnone, .inl hcause⟩
  · exact ⟨hnone, .inr hcause⟩

/-! While BUSY = 1 (R226). -/

/-- A read reports E_ADDR or E_STALE, if anything (R69, R226). -/
theorem expectedError_read_ne_busy {x : Access} (hx : x.we = false) (s : State) : expectedError x s ≠ some .busy := by
  unfold expectedError
  rw [hx, if_neg Bool.false_ne_true]
  split_ifs <;> simp

/-- Settles O23: BUSY is looked at by every command but INIT and by the load of a word, and by no read or ERR write. -/
theorem busyRefusesAllCommandsButInit : Obligations.BusyRefusesAllCommandsButInit := by
  intro s hb
  refine ⟨fun i hi => exec_of_busy hi hb, fun j v hj => ?_, rfl, errWriteClearsErr s, fun x hx => ?_⟩
  · rw [access_write_blockWord hj, wordLoad_of_busy (u := s.setReply .ack) hb]
    rfl
  · obtain ⟨t, _, ht, -⟩ := readsChangeAtMostErr x s hx
    exact ⟨expectedError_read_ne_busy hx s, t, ht⟩

end Sys2Proof.Proofs
end

section
/-! PROOFS. Command words and the commands they issue (spec/30_encoding.md R102 to R106, spec/43_control.md R190, R193): decode
and encode agree, a step runs the command that its word decodes to, and a command out of its phase does nothing. -/

namespace Sys2Proof.Proofs

open Sys2Proof.Machine

/-! The host's table: a word's number names that word (R105). -/

theorem tableWord_toNat (v : Word) : tableWord 32 v.toNat = v := by
  rw [tableWord, Nat.mod_eq_of_lt v.isLt, BitVec.ofNat_toNat, BitVec.setWidth_eq]

theorem decodeTableWord_toNat (v : Word) : decodeTableWord 32 v.toNat = (decode v).toOption := by
  rw [decodeTableWord, if_pos (Nat.mod_lt _ (by decide)), tableWord_toNat]

theorem toOption_decode_encode (i : Instr) : (decode (encode i)).toOption = some i := by
  rw [decode_encode]; rfl

/-- A table row that names a command holds that command's word. -/
theorem decode_tableWord {nbits w : Nat} {i : Instr} (h : decodeTableWord nbits w = some i) :
    decode (tableWord nbits w) = .ok i := by
  rw [decodeTableWord] at h
  split at h
  · cases hd : decode (tableWord nbits w) with
    | error e => rw [hd] at h; cases h
    | ok j =>
      rw [hd] at h
      exact congrArg Except.ok (Option.some.inj h)
  · cases h

/-- Settles O3: each command's word decodes to it, and no other word does. -/
theorem decodeAndEncodeAgree : Obligations.DecodeAndEncodeAgree :=
  ⟨fun i _ => ⟨decode_encode i, (decodeTableWord_toNat _).trans (toOption_decode_encode i)⟩,
    fun _ _ h => (eq_encode_of_decode h).symm⟩

/-- Settles O1: seven words are those of the commands, and the other three have an opcode above 6 or a nonzero RSVD. -/
theorem opcodeMapWordsDecode : Obligations.OpcodeMapWordsDecode :=
  ⟨toOption_decode_encode .nop, toOption_decode_encode .init, toOption_decode_encode .start,
    toOption_decode_encode .sched, toOption_decode_encode .round, toOption_decode_encode .final,
    toOption_decode_encode .run, by decide, by decide, by decide⟩

/-- The write of a command's word as the next event (R190). -/
theorem step_issue {s : State} {rest : List Event} {v : Word} {i : Instr} (hs : s.inputs = .access (cmdAccess v) :: rest)
    (hd : decode v = .ok i) : step s = exec i ((s.setInputs rest).setReply .ack) := by
  rw [step_access hs, access_cmd, cmdWrite_ok hd]

/-- Settles O5: the write reaches the decoder, and `withFetchWord` puts such a write in front of the events to come. -/
theorem stepRunsTheDecodedCommand : Obligations.StepRunsTheDecodedCommand :=
  ⟨fun _ _ _ _ => step_issue, fun s nbits w _ h =>
    step_issue (s := s.withFetchWord nbits w) (rest := s.inputs) rfl (decode_tableWord h)⟩

/-- Settles O30: the three datapath commands have one check of PHASE in common, and RUN looks at the load mask in LOAD. -/
theorem commandsOutOfPhaseOnlyRecordSeq : Obligations.CommandsOutOfPhaseOnlyRecordSeq := fun _ hb =>
  ⟨outOfPhase_idle hb, outOfPhase_idle hb, outOfPhase_idle hb, exec_run_of_not_loaded hb⟩

end Sys2Proof.Proofs
end

section
/-! PROOFS. Transactions without an error (spec/60_exceptions.md R222, R230): they leave ERR as it was, but for the ERR write. -/

namespace Sys2Proof.Proofs

open Sys2Proof.Machine

/-! The command words without an error. -/

/-- SCHED, ROUND and FINAL with BUSY = 0, in their own phase, record no error. -/
theorem inPhase_err {p : Phase} {dstep : State → State} (hd : ∀ u, (dstep u).err = u.err) {s t : State}
    (hb : s.busy = false) (hp : s.phase = p)
    (h : unlessBusy (fun u => if u.phase = p then whenSequenceOk dstep u else .next (u.raise .seq)) s = .next t) :
    t.err = s.err := by
  rw [inPhase_idle hb hp] at h
  obtain ⟨-, e⟩ | ⟨-, e⟩ := whenSequenceOk_cases dstep s
  · obtain rfl := Host.Outcome.next.inj (e.symm.trans h)
    exact hd s
  · cases e.symm.trans h

/-- With BUSY = 0 a command in sequence records no error (R225). -/
theorem exec_err_of_inSequence {i : Instr} {s t : State} (hb : s.busy = false)
    (hseq : ¬ commandOutOfSequence (encode i) s = true) (h : exec i s = .next t) : t.err = s.err := by
  simp only [commandOutOfSequence_iff, encode_injective.eq_iff] at hseq
  cases i with
  | nop =>
    obtain rfl := Host.Outcome.next.inj ((unlessBusy_idle hb).symm.trans h)
    rfl
  | init =>
    obtain rfl := Host.Outcome.next.inj h
    rfl
  | start =>
    obtain ⟨hp, hw⟩ : s.phase = .load ∧ s.wloaded = 0xFFFF#16 := by simpa using hseq
    obtain rfl := Host.Outcome.next.inj ((exec_start_of_loaded hb hp hw).symm.trans h)
    rfl
  | sched => exact inPhase_err (dstep := schedNext) (fun _ => rfl) hb (by simpa using hseq) h
  | round => exact inPhase_err (dstep := roundNext) (fun _ => rfl) hb (by simpa using hseq) h
  | final => exact inPhase_err (dstep := finalNext) (fun _ => rfl) hb (by simpa using hseq) h
  | run =>
    by_cases hp : s.phase = .load
    · have hw : s.wloaded = 0xFFFF#16 := by simpa [hp] using hseq
      obtain rfl := Host.Outcome.next.inj ((exec_run_of_loaded hb hp hw).symm.trans h)
      rfl
    · obtain rfl := Host.Outcome.next.inj ((exec_run_of_inProgress hb hp).symm.trans h)
      rfl

/-- A command word without an error leaves ERR as it was. -/
theorem cmdWrite_err_of_no_error {v : Word} {s t : State} (h : commandError v s = none) (ht : cmdWrite v s = .next t) :
    t.err = s.err := by
  unfold commandError at h
  split at h
  · cases h
  obtain ⟨i, hi⟩ := decode_legal ‹_›
  obtain rfl := eq_encode_of_decode hi
  rw [cmdWrite_ok hi] at ht
  split at h
  · cases h
  rename_i hbusy
  split at h
  · cases h
  rename_i hseq
  obtain rfl | hinit := eq_or_ne i .init
  · obtain rfl := Host.Outcome.next.inj ht
    rfl
  · have hb : s.busy = false := Bool.eq_false_of_not_eq_true fun hb => hbusy ⟨hb, encode_injective.ne hinit⟩
    exact exec_err_of_inSequence hb hseq ht

/-! The transactions without an error. -/

/-- A transaction without an error is a full word at a register (R64 to R66). -/
theorem mapped_of_no_error {x : Access} {s : State} (h : expectedError x s = none) :
    x.size = .word ∧ ∃ g, target x.off = some g := by
  rw [expectedError] at h
  split at h
  · cases h
  · rename_i haddr
    obtain ⟨halign, hsize, hres⟩ := (not_or.mp haddr).imp_right not_or.mp
    exact ⟨not_not.mp hsize, Option.ne_none_iff_exists'.mp (mt target_eq_none.mp (not_or.mpr ⟨halign, hres⟩))⟩

/-- A word load without an error leaves ERR as it was (R150). -/
theorem wordLoad_err_of_no_error {j : Nat} {v : Word} {u : State}
    (h : (if u.busy then some ErrCode.busy else if u.phase ≠ .load then some .seq else none) = none) :
    (wordLoad j v u).err = u.err := by
  split at h
  · cases h
  split at h
  · cases h
  · rw [wordLoad_of_load ‹_› (not_not.mp ‹_›)]
    rfl

/-- A read without an error leaves ERR as it was (R69). -/
theorem read_err_of_no_error {x : Access} {s t : State} (hx : x.we = false) (h : expectedError x s = none)
    (ht : access x s = .next t) : t.err = s.err := by
  obtain ⟨u, _, hu, hcase⟩ := readsChangeAtMostErr x s hx
  obtain rfl := Host.Outcome.next.inj (hu.symm.trans ht)
  rw [expectedError] at h
  split at h
  · cases h
  rename_i haddr
  rw [hx, if_neg Bool.false_ne_true] at h
  split at h
  · cases h
  rename_i hstale
  obtain rfl | ⟨hbad, -⟩ | ⟨hlow, hhigh, hvalid, -⟩ := hcase
  · rfl
  · exact absurd hbad haddr
  · exact absurd ⟨hlow, hhigh, hvalid⟩ hstale

/-- A write without an error goes to CMD, to ERR, or to a block word in LOAD with BUSY = 0; only the second changes ERR. -/
theorem write_err_of_no_error {off : BitVec 12} {v : Word} {g : Target} {s t : State} (hg : target off = some g)
    (h : expectedError { we := true, off := off, size := .word, wdata := v } s = none)
    (ht : writeTarget g v (s.setReply .ack) = .next t) : t.err = if off = 0x00C#12 then .clear else s.err := by
  dsimp only [expectedError] at h
  split at h
  · cases h
  rw [if_pos rfl] at h
  split at h
  · cases h
  obtain ⟨rfl, rfl⟩ | ⟨rfl, rfl⟩ | ⟨j, rfl, hj⟩ := writable_of_target hg ‹_›
  · rw [if_neg (by decide)]
    exact cmdWrite_err_of_no_error (s := s.setReply .ack) h ht
  · obtain rfl := Host.Outcome.next.inj ht
    rfl
  · have ho : off.toNat = 0x100 + 4 * j := (offset_of_reaches_schedWord (x := ⟨true, off, .word, v⟩) hg).1
    have hne : off ≠ 0x00C#12 := by
      rintro rfl
      have : 0x00C = 0x100 + 4 * j := ho
      omega
    rw [if_neg (by omega), if_neg (by omega)] at h
    obtain rfl := Host.Outcome.next.inj ((if_neg (by simp [hj])).symm.trans ht)
    rw [if_neg hne]
    exact wordLoad_err_of_no_error (u := s.setReply .ack) h

/-- Settles O20, by the reads and the writes that have no error. -/
theorem accessWithoutErrorRecordsNone : Obligations.AccessWithoutErrorRecordsNone := by
  rintro ⟨we, off, size, v⟩ s t h ht
  cases we with
  | false =>
    rw [if_neg (by simp)]
    exact read_err_of_no_error rfl h ht
  | true =>
    obtain ⟨rfl, g, hg⟩ : size = .word ∧ ∃ g, target off = some g := mapped_of_no_error h
    rw [access_write hg] at ht
    rw [write_err_of_no_error hg h ht]
    simp [ErrReg.clear]

end Sys2Proof.Proofs
end
